-- ==== Sys2Proof/Word.lean ====
section
/-!
DEFINITION. The word types of the block and the two shapes of a generator state file.
-/

namespace Sys2Proof

/-- One byte of the buffer. -/
abbrev Byte := BitVec 8

/-- A 32-bit unsigned word (`u32` of 00_scope.md R9). -/
abbrev U32 := BitVec 32

/-- A 64-bit unsigned word (`u64` of 00_scope.md R9). -/
abbrev U64 := BitVec 64

/-- Four words of `w` bits: the shape of the files `G32`, `G64`, `GF` (10_state.md R31) and of their
jump polynomials (42_prng.md R182). -/
structure Quad (w : Nat) where
  w0 : BitVec w
  w1 : BitVec w
  w2 : BitVec w
  w3 : BitVec w
  deriving DecidableEq, Repr

/-- Two words of 64 bits: the shape of the file `GD` (10_state.md R31) and of its jump polynomial. -/
structure Duo where
  w0 : U64
  w1 : U64
  deriving DecidableEq, Repr

end Sys2Proof
end

