-- ==== Sys2Proof/Syntax.lean ====
section
/-!
DEFINITION. The command set of 30_encoding.md R93: one constructor of `Instr` per row of the opcode table.
-/

namespace Sys2Proof

/-- A generator variant, the selector of the generator commands (30_encoding.md R92, 10_state.md R31). -/
inductive Variant where
  | g32
  | g64
  | gf
  | gd
  deriving DecidableEq, Repr

/-- A capability feature, the selector of `CAPQ` (30_encoding.md R92, 10_state.md R26). -/
inductive Feature where
  | crc
  | fast
  | ent
  deriving DecidableEq, Repr

/-- The 23 commands (30_encoding.md R93). Which variants a generator command admits is `Instr.wellFormed`. -/
inductive Instr where
  | nop
  | mix32
  | mix64
  | comb32
  | comb64
  | sxnext
  | crc8
  | crc16
  | crc32
  | crc64
  | hash32
  | hash64
  | ginit (v : Variant)
  | gnext (v : Variant)
  | gjump (v : Variant)
  | gunif (v : Variant)
  | gbound (v : Variant)
  | grange (v : Variant)
  | gadopt (v : Variant)
  | capq (f : Feature)
  | tryfast
  | tryent
  | autoseed
  deriving DecidableEq, Repr

end Sys2Proof
end

