-- ==== Sys2Proof/WellFormed.lean ====
section
/-!
DEFINITION. Which terms of `Instr` are commands of the block: the legal selectors of 30_encoding.md R93.
-/

namespace Sys2Proof

/-- `GUNIF` exists for the float and double generators only (30_encoding.md R93, R97). -/
def Variant.isFloat : Variant → Bool
  | .g32 => false
  | .g64 => false
  | .gf => true
  | .gd => true

/-- `GBOUND` and `GRANGE` exist for the integer generators only (30_encoding.md R93, R97). -/
def Variant.isInteger : Variant → Bool
  | .g32 => true
  | .g64 => true
  | .gf => false
  | .gd => false

/-- The selector is in the row's legal list (30_encoding.md R93). -/
def Instr.wellFormed : Instr → Bool
  | .nop => true
  | .mix32 => true
  | .mix64 => true
  | .comb32 => true
  | .comb64 => true
  | .sxnext => true
  | .crc8 => true
  | .crc16 => true
  | .crc32 => true
  | .crc64 => true
  | .hash32 => true
  | .hash64 => true
  | .ginit _ => true
  | .gnext _ => true
  | .gjump _ => true
  | .gunif v => v.isFloat
  | .gbound v => v.isInteger
  | .grange v => v.isInteger
  | .gadopt _ => true
  | .capq _ => true
  | .tryfast => true
  | .tryent => true
  | .autoseed => true

end Sys2Proof
end

