-- ==== Sys2Proof/Decode.lean ====
section
/-!
DEFINITION. The decoder of a command word, total on all 64-bit words (30_encoding.md R90 to R95), and the encoder.
-/

namespace Sys2Proof

/-- Field `OP`, bits 7:0 (30_encoding.md R90). -/
def opField (w : U64) : BitVec 8 := w.extractLsb' 0 8

/-- Field `V`, bits 9:8 (30_encoding.md R90). -/
def vField (w : U64) : BitVec 2 := w.extractLsb' 8 2

/-- Field `RSV`, bits 63:10, "must be 0" (30_encoding.md R90). -/
def rsvField (w : U64) : BitVec 54 := w.extractLsb' 10 54

/-- The variant a selector names (30_encoding.md R92). -/
def variantOf (v : BitVec 2) : Variant :=
  if v = 0 then .g32 else if v = 1 then .g64 else if v = 2 then .gf else .gd

/-- The feature a selector names; 3 is reserved (30_encoding.md R92). -/
def featureOf (v : BitVec 2) : Option Feature :=
  if v = 0 then some .crc else if v = 1 then some .fast else if v = 2 then some .ent else none

/-- A command that takes no selector: `V` must be 0 (30_encoding.md R92). -/
def plainCommand (v : BitVec 2) (i : Instr) : Option Instr := if v = 0 then some i else none

/-- The command of opcode `op` with selector `v`, whether or not the command admits that selector; `none` for a
reserved opcode (30_encoding.md R93). -/
def commandOf (op : BitVec 8) (v : BitVec 2) : Option Instr :=
  if op = 0x00 then plainCommand v .nop
  else if op = 0x01 then plainCommand v .mix32
  else if op = 0x02 then plainCommand v .mix64
  else if op = 0x03 then plainCommand v .comb32
  else if op = 0x04 then plainCommand v .comb64
  else if op = 0x05 then plainCommand v .sxnext
  else if op = 0x10 then plainCommand v .crc8
  else if op = 0x11 then plainCommand v .crc16
  else if op = 0x12 then plainCommand v .crc32
  else if op = 0x13 then plainCommand v .crc64
  else if op = 0x14 then plainCommand v .hash32
  else if op = 0x15 then plainCommand v .hash64
  else if op = 0x20 then some (.ginit (variantOf v))
  else if op = 0x21 then some (.gnext (variantOf v))
  else if op = 0x22 then some (.gjump (variantOf v))
  else if op = 0x23 then some (.gunif (variantOf v))
  else if op = 0x24 then some (.gbound (variantOf v))
  else if op = 0x25 then some (.grange (variantOf v))
  else if op = 0x26 then some (.gadopt (variantOf v))
  else if op = 0x30 then (featureOf v).map .capq
  else if op = 0x31 then plainCommand v .tryfast
  else if op = 0x32 then plainCommand v .tryent
  else if op = 0x33 then plainCommand v .autoseed
  else none

/-- Decoding is total and reads only the word: a command with a legal selector, or `none`, which is "illegal"
(30_encoding.md R94, R95). -/
def decodeWord (w : U64) : Option Instr :=
  if rsvField w = 0 then (commandOf (opField w) (vField w)).filter Instr.wellFormed else none

/-- The decoder on the numbering of the opcode table: the low `nbits` bits of `w`, every higher bit 0. -/
def decodeTableWord (nbits w : Nat) : Option Instr := decodeWord (BitVec.ofNat 64 (w % 2 ^ nbits))

/-- The number of a variant in `V` (30_encoding.md R92). -/
def Variant.number : Variant → BitVec 2
  | .g32 => 0
  | .g64 => 1
  | .gf => 2
  | .gd => 3

/-- The number of a feature in `V` (30_encoding.md R92). -/
def Feature.number : Feature → BitVec 2
  | .crc => 0
  | .fast => 1
  | .ent => 2

/-- The opcode of a command (30_encoding.md R93). -/
def Instr.opcode : Instr → BitVec 8
  | .nop => 0x00
  | .mix32 => 0x01
  | .mix64 => 0x02
  | .comb32 => 0x03
  | .comb64 => 0x04
  | .sxnext => 0x05
  | .crc8 => 0x10
  | .crc16 => 0x11
  | .crc32 => 0x12
  | .crc64 => 0x13
  | .hash32 => 0x14
  | .hash64 => 0x15
  | .ginit _ => 0x20
  | .gnext _ => 0x21
  | .gjump _ => 0x22
  | .gunif _ => 0x23
  | .gbound _ => 0x24
  | .grange _ => 0x25
  | .gadopt _ => 0x26
  | .capq _ => 0x30
  | .tryfast => 0x31
  | .tryent => 0x32
  | .autoseed => 0x33

/-- The selector of a command, 0 where it takes none (30_encoding.md R92). -/
def Instr.selector : Instr → BitVec 2
  | .nop => 0
  | .mix32 => 0
  | .mix64 => 0
  | .comb32 => 0
  | .comb64 => 0
  | .sxnext => 0
  | .crc8 => 0
  | .crc16 => 0
  | .crc32 => 0
  | .crc64 => 0
  | .hash32 => 0
  | .hash64 => 0
  | .ginit v => v.number
  | .gnext v => v.number
  | .gjump v => v.number
  | .gunif v => v.number
  | .gbound v => v.number
  | .grange v => v.number
  | .gadopt v => v.number
  | .capq f => f.number
  | .tryfast => 0
  | .tryent => 0
  | .autoseed => 0

/-- The command word `OP | V << 8` (30_encoding.md R94). -/
def encode (i : Instr) : U64 := i.opcode.setWidth 64 ||| (i.selector.setWidth 64 <<< 8)

end Sys2Proof
end

