-- ==== Sys2Proof/Config.lean ====
section
/-!
DEFINITION. What an implementation of the block fixes (the parameter record of 00_scope.md R6 and the
identification inputs of 10_state.md R40), and the free values: what the spec leaves to the environment or
calls unspecified, as constants with no body.
-/

namespace Sys2Proof

/-- The named parameters of the block (00_scope.md R6), one field per row of its table. A shift or rotation
amount is a natural number; the range the spec gives it is in `Params.wf`. -/
structure Params where
  mix32C1 : U32
  mix32C2 : U32
  mix64C1 : U64
  mix64C2 : U64
  sexpInc : U64
  phi32 : U32
  phi64 : U64
  crcPolyR : U32
  g32Mul1 : U32
  g32Srot : Nat
  g32Mul2 : U32
  g32Shift : Nat
  g32Rot : Nat
  g64Mul1 : U64
  g64Srot : Nat
  g64Mul2 : U64
  g64Shift : Nat
  g64Rot : Nat
  gdRotA : Nat
  gdShift : Nat
  gdRotB : Nat
  jumpG32 : Quad 32
  jumpG64 : Quad 64
  jumpGd : Duo
  fastAttempts : Nat
  entAttempts : Nat
  bufBytes : Nat
  archApplicable : Bool
  deriving DecidableEq, Repr

/-- `0 < r < n`: shift and rotate amounts are "strictly between 0 and N" (00_scope.md R9). -/
def amountOk (n r : Nat) : Bool := decide (0 < r) && decide (r < n)

/-- The constraints the spec puts on the parameter record: an odd `SEXP_INC`, nonzero φ words (R6, 42_prng.md
R173, U16), amounts strictly between 0 and the width (R9), at least one attempt on each source, `BUF_BYTES` a
multiple of 8 (R6). -/
def Params.wf (p : Params) : Bool :=
  p.sexpInc.getLsbD 0 && p.phi32 != 0 && p.phi64 != 0 &&
  amountOk 32 p.g32Srot && amountOk 32 p.g32Shift && amountOk 32 p.g32Rot &&
  amountOk 64 p.g64Srot && amountOk 64 p.g64Shift && amountOk 64 p.g64Rot &&
  amountOk 64 p.gdRotA && amountOk 64 p.gdShift && amountOk 64 p.gdRotB &&
  decide (1 ≤ p.fastAttempts) && decide (1 ≤ p.entAttempts) && p.bufBytes % 8 == 0

/-- The candidate parameter set P0 of 00_scope.md R6. The spec marks every value of it "from general knowledge,
not in source"; the model uses it in `State.reset` alone. DESIGN CHOICE, unsafe: log 1. -/
def Params.candidate : Params where
  mix32C1 := 0x7FEB352D
  mix32C2 := 0x846CA68B
  mix64C1 := 0xBF58476D1CE4E5B9
  mix64C2 := 0x94D049BB133111EB
  sexpInc := 0x9E3779B97F4A7C15
  phi32 := 0x9E3779B9
  phi64 := 0x9E3779B97F4A7C15
  crcPolyR := 0x82F63B78
  g32Mul1 := 5
  g32Srot := 7
  g32Mul2 := 9
  g32Shift := 9
  g32Rot := 11
  g64Mul1 := 5
  g64Srot := 7
  g64Mul2 := 9
  g64Shift := 17
  g64Rot := 45
  gdRotA := 24
  gdShift := 16
  gdRotB := 37
  jumpG32 := ⟨0x8764000B, 0xF542D2D3, 0x6FA035C3, 0x77F2DB5B⟩
  jumpG64 := ⟨0x180EC6D33CFD0ABA, 0xD5A61266F0C9392C, 0xA9582618E03FC9AA, 0x39ABDC4529B1661C⟩
  jumpGd := ⟨0xDF900294D8F554A5, 0x170865DF4B3201FC⟩
  fastAttempts := 255
  entAttempts := 4095
  bufBytes := 4096
  archApplicable := true

/-- The three identification words, "configuration fields fixed for a run" (10_state.md R40). -/
structure Ids where
  maxLeaf : U32
  leaf1 : U32
  leaf7 : U32
  deriving DecidableEq, Repr

/-- Environment A of 95_test_vectors.md section 2.12: all three features present. The spec gives the
identification inputs no reset value (R50). DESIGN CHOICE, unsafe: log 2. -/
def Ids.environmentA : Ids := ⟨0x0000000D, 0x40100000, 0x00040000⟩

/-- The answer of a source port to one attempt: the pair `(ok, data)` of 10_state.md R42. -/
structure Attempt where
  ok : Bool
  data : U64
  deriving DecidableEq, Repr, Inhabited

/-- Free value: the answer of the fast source to the attempt of this number, where the feed scripts none
(10_state.md R42, U4). No body: nothing can be proved of a value of it. Log 6, safe. -/
opaque Config.fastDraw : Nat → Attempt

/-- Free value: the answer of the entropy source to the attempt of this number (10_state.md R43, U4).
Log 6, safe. -/
opaque Config.entDraw : Nat → Attempt

/-- Free value: the cycle-counter sample of this number (10_state.md R41, U4). Log 6, safe. -/
opaque Config.cycDraw : Nat → U64

/-- Free value: what byte `BUF[a]` holds before the host has written it, in the generation of the buffer that
the first argument counts (10_state.md R50, U3: "any value per unwritten byte"). Log 5, safe. -/
opaque Config.unwrittenByte : Nat → Nat → Byte

end Sys2Proof
end

