-- ==== Sys2Proof/Machine/State.lean ====
section
/-!
DEFINITION. The state of the block: every register and buffer byte the spec gives it, its inputs and parameters,
the host accesses waiting at its port, and the state after reset (10_state.md).
-/

namespace Sys2Proof.Machine

open Sys2Proof

/-- An input of the environment, in the order the block draws from it: the answers the environment has decided on
(`script`), and after them the free values of the numbers from `used` on. `used` counts the draws made so far.
DESIGN CHOICE of form, safe: log 6. -/
structure Feed (α : Type) where
  script : List α
  used : Nat
  deriving DecidableEq, Repr

/-- The bytes of `BUF` the host has written since the last reset, by buffer offset: offsets strictly rising. An
offset that is not listed has no value (10_state.md R50); what a use of it then reads is `Config.unwrittenByte`. -/
abbrev Memory := List Host.Cell

/-- What arrives at the block's port: a host access of the window (20_memory.md R60 to R63), or the reset input
(70_reset_and_hazards.md R300). `size` is in bytes; a write of `n` bytes carries its value in the low `8n` bits of
`value` (log 9). A reset carries the identification words the platform presents from it on: they "can differ between
two resets" (00_scope.md R8; log 13). -/
inductive HostEvent where
  | read (offset size : Nat)
  | write (offset size : Nat) (value : U64)
  /-- The reset input, asserted while no command runs, or while one that never ends does. -/
  | reset (ids : Ids)
  /-- A write of `word` to `CMD` whose command the reset input abandons, after the command had made at most `draws`
  attempts and samples (R300, "a command in progress is abandoned"; log 8). -/
  | abandon (word : U64) (draws : Nat) (ids : Ids)
  deriving DecidableEq, Repr

/-- What the port answered to the last access: nothing yet, the data of a read (zero-extended), the completion of
a write, or the bus error of a refused access (20_memory.md R63). The model's own: log 4. -/
inductive BusResponse where
  | idle
  | data (value : U64)
  | accepted
  | busError
  deriving DecidableEq, Repr

/-- Why a step stops. -/
inductive Fault where
  /-- Raised by `exec` of `GBOUND` and `GRANGE` when the rejection loop accepts none of the generator's draws, however
  many are made: the command has no end (43_sampler.md R210, 70_reset_and_hazards.md R312, U7 "stuck"). `step` turns
  it into a held `CMD` write, which a reset can abandon (R300). Safe: the command has no later state on the block
  either. Log 7. -/
  | samplerDiverges
  deriving DecidableEq, Repr

/-- Why the model gives no meaning. -/
inductive Refusal where
  /-- Raised by an arm of `exec` that has no meaning yet. Safe. No arm of this model raises it. -/
  | notModelled (mnemonic : String)
  deriving DecidableEq, Repr

/-- The state of the block (10_state.md), its parameters and inputs, and the model's own fields for the port. -/
structure State where
  /-- Parameters, fixed for a run (00_scope.md R6). Log 1. -/
  par : Params
  /-- Identification inputs, fixed from one reset to the next (R8, R40). Logs 2 and 13. -/
  ids : Ids
  /-- `CMD` (R24). -/
  cmd : U64
  /-- `STATUS` (R25). -/
  status : U64
  /-- `OPA` (R21). -/
  opa : U64
  /-- `OPB` (R21). -/
  opb : U64
  /-- `RES0` (R21). -/
  res0 : U64
  /-- `RES1` (R21). -/
  res1 : U64
  /-- `CAPS` (R26). -/
  caps : U64
  /-- `GINITED` (R28). -/
  ginited : U64
  /-- `SXACC` (R29). -/
  sxacc : U64
  /-- `G32[0..3]` (R31). -/
  g32 : Quad 32
  /-- `G64[0..3]` (R31). -/
  g64 : Quad 64
  /-- `GF[0..3]` (R31). -/
  gf : Quad 32
  /-- `GD[0..1]` (R31). -/
  gd : Duo
  /-- `BUF` (R34): the bytes written since reset. -/
  buf : Memory
  /-- The model's own: the generation of the unwritten bytes' free contents. Log 5. -/
  bufGen : Nat
  /-- The fast source port (R42). Log 6. -/
  fast : Feed Attempt
  /-- The entropy source port (R43). Log 6. -/
  ent : Feed Attempt
  /-- The cycle-counter input (R41). Log 6. -/
  cyc : Feed U64
  /-- The model's own: host accesses and resets waiting at the port, in arrival order (20_memory.md R69). Log 3. -/
  port : List HostEvent
  /-- The model's own: the port's last answer. Log 4. -/
  resp : BusResponse
  /-- The model's own: a `CMD` write is held because its command never ends (U7, R312). Log 7. -/
  held : Bool
  deriving DecidableEq, Repr

/-- Every register at its reset value (10_state.md R50), with parameters `p`, identification words `i`, nothing
drawn from the environment, and nothing at the port. -/
def State.resetWith (p : Params) (i : Ids) : State where
  par := p
  ids := i
  cmd := 0
  status := 0
  opa := 0
  opb := 0
  res0 := 0
  res1 := 0
  caps := 0
  ginited := 0
  sxacc := 0
  g32 := ⟨0, 0, 0, 0⟩
  g64 := ⟨0, 0, 0, 0⟩
  gf := ⟨0, 0, 0, 0⟩
  gd := ⟨0, 0⟩
  buf := []
  bufGen := 0
  fast := ⟨[], 0⟩
  ent := ⟨[], 0⟩
  cyc := ⟨[], 0⟩
  port := []
  resp := .idle
  held := false

/-- The machine right after reset (10_state.md R50), with the candidate parameter set P0 (log 1) and the
identification words of environment A (log 2). -/
def State.reset : State := State.resetWith Params.candidate Ids.environmentA

end Sys2Proof.Machine
end

