-- ==== Sys2Proof/Machine/Flags.lean ====
section
/-!
DEFINITION. The fields of `STATUS`, `CAPS` and `GINITED` (10_state.md R25, R26, R28). The block has no arithmetic
flag (R30): these are the only flag-like state.
-/

namespace Sys2Proof.Machine

open Sys2Proof

/-- The outcome codes of `STATUS.CODE` (10_state.md R25, 60_exceptions.md R270). -/
inductive Code where
  | ok
  | unavail
  | exhausted
  | precond
  | noinit
  | illegal
  | range
  deriving DecidableEq, Repr

/-- The values of `STATUS.SRC`: which source supplied the word (10_state.md R25). -/
inductive Source where
  | none
  | entropy
  | fast
  | cycle
  deriving DecidableEq, Repr

/-- The numbering of `CODE` (10_state.md R25). -/
def Code.bits : Code → BitVec 4
  | .ok => 0
  | .unavail => 1
  | .exhausted => 2
  | .precond => 3
  | .noinit => 4
  | .illegal => 5
  | .range => 6

/-- The numbering of `SRC` (10_state.md R25). -/
def Source.bits : Source → BitVec 2
  | .none => 0
  | .entropy => 1
  | .fast => 2
  | .cycle => 3

/-- The whole `STATUS` word: `CODE` in bits 3:0, `SRC` in bits 5:4, the rest 0 (10_state.md R25). -/
def statusWord (c : Code) (src : Source) : U64 := c.bits.setWidth 64 ||| (src.bits.setWidth 64 <<< 4)

/-- `STATUS.CODE` (10_state.md R25). -/
def codeField (status : U64) : BitVec 4 := status.extractLsb' 0 4

/-- `STATUS.SRC` (10_state.md R25). -/
def srcField (status : U64) : BitVec 2 := status.extractLsb' 4 2

/-- The lowest bit of a feature's cell in `CAPS` (10_state.md R26). -/
def capShift : Feature → Nat
  | .crc => 0
  | .fast => 2
  | .ent => 4

/-- The cell of a feature: 0 `unknown`, 1 `supported`, 2 `unsupported` (10_state.md R26). -/
def capCell (caps : U64) (f : Feature) : BitVec 2 := caps.extractLsb' (capShift f) 2

/-- `CAPS` with the cell of `f` replaced by `c` and every other bit kept (10_state.md R26, R27). -/
def setCapCell (caps : U64) (f : Feature) (c : BitVec 2) : U64 :=
  (caps &&& ~~~((3 : U64) <<< capShift f)) ||| (c.setWidth 64 <<< capShift f)

/-- The encoding of a capability answer in a cell (10_state.md R26). -/
def capAnswer (supported : Bool) : BitVec 2 := if supported then 1 else 2

/-- The mask of a variant's bit in `GINITED` (10_state.md R28). -/
def initMask (v : Variant) : U64 := 1 <<< v.number.toNat

/-- `GINITED[v]` (10_state.md R28). -/
def isInited (ginited : U64) (v : Variant) : Bool := ginited.getLsbD v.number.toNat

/-- `GINITED` with the bit of `v` set (10_state.md R28). -/
def setInited (ginited : U64) (v : Variant) : U64 := ginited ||| initMask v

/-- `GINITED` with the bit of `v` cleared (10_state.md R28, R33). -/
def clearInited (ginited : U64) (v : Variant) : U64 := ginited &&& ~~~initMask v

end Sys2Proof.Machine
end

