-- ==== Sys2Proof/Machine/Operands.lean ====
section
/-!
DEFINITION. Operands and results: the low bits of `OPA` and `OPB`, and zero-extension (10_state.md R22,
30_encoding.md R91).
-/

namespace Sys2Proof.Machine

open Sys2Proof

/-- The low `w` bits of `OPA`; the high bits are ignored (10_state.md R22). -/
def State.opaLow (w : Nat) (s : State) : BitVec w := s.opa.setWidth w

/-- The low `w` bits of `OPB`; the high bits are ignored (10_state.md R22). -/
def State.opbLow (w : Nat) (s : State) : BitVec w := s.opb.setWidth w

/-- A result written to `RES0`, zero-extended (10_state.md R22). -/
def State.withRes0 {w : Nat} (s : State) (v : BitVec w) : State := { s with res0 := v.setWidth 64 }

/-- A result written to `RES1`, zero-extended (10_state.md R22). -/
def State.withRes1 {w : Nat} (s : State) (v : BitVec w) : State := { s with res1 := v.setWidth 64 }

end Sys2Proof.Machine
end

