-- ==== Sys2Proof/Machine/Ops.lean ====
section
/-!
DEFINITION. The shared operations: how a command ends (`succeed`) and how it fails (`raise`), the bytes of `BUF`,
the capability cache, and one draw from an input of the environment.
-/

namespace Sys2Proof.Machine

open Sys2Proof

/-- `rotl_N(x, r)` for `0 < r < N` (00_scope.md R9). -/
def rotl {w : Nat} (x : BitVec w) (r : Nat) : BitVec w := (x <<< r) ||| (x >>> (w - r))

/-- The last action of every command: `STATUS` is written whole (10_state.md R25). -/
def State.setStatus (s : State) (c : Code) (src : Source) : State := { s with status := statusWord c src }

/-- The end of a command that delivered: `CODE` = `OK` and the source, if one is named (10_state.md R25). -/
def State.succeed (s : State) (src : Source := .none) : State := s.setStatus .ok src

/-- `raise <CODE>`: `STATUS.CODE` gets the code, `STATUS.SRC` gets 0, nothing else changes (00_scope.md R10,
60_exceptions.md R272). There is no trap entry and no return from one (R273, R274): the next command runs as after
a success. -/
def State.raise (s : State) (c : Code) : State := s.setStatus c .none

/-- The byte the host last wrote at `a` since reset, or nothing (10_state.md R34, R50). -/
def Memory.get? : Memory → Nat → Option Byte
  | [], _ => none
  | (b, v) :: m, a => if a = b then some v else Memory.get? m a

/-- The list with byte `v` at offset `a`, offsets kept strictly rising. -/
def Memory.set : Memory → Nat → Byte → Memory
  | [], a, v => [(a, v)]
  | (b, u) :: m, a, v =>
    if a < b then (a, v) :: (b, u) :: m
    else if a = b then (a, v) :: m
    else (b, u) :: Memory.set m a v

/-- The canonical form of a memory: offsets strictly rising. An unlisted offset has no value, so no entry can equal
what it reads as. -/
def Memory.wf (m : Memory) : Bool := decide ((m.map Prod.fst).Pairwise (· < ·))

/-- The byte `BUF[a]`: the one written, or the free value of a byte nothing has written (10_state.md R50, U3;
log 5). -/
def State.bufByte (s : State) (a : Nat) : Byte := (s.buf.get? a).getD (Config.unwrittenByte s.bufGen a)

/-- `MemRead(a, n)` and the host's read: `BUF[a] | BUF[a+1] << 8 | ...`, zero-extended to 64 bits
(00_scope.md R10, 20_memory.md R65, R66). -/
def State.memRead (s : State) : Nat → Nat → U64
  | _, 0 => 0
  | a, n + 1 => (s.bufByte a).setWidth 64 ||| (s.memRead (a + 1) n <<< 8)

/-- The host's `MemWrite(a, n, v)`: `BUF[a + i] <- v[8i+7:8i]` for `i` = 0 .. n-1 (20_memory.md R65). -/
def Memory.write : Memory → Nat → Nat → U64 → Memory
  | m, _, 0, _ => m
  | m, a, n + 1, v => Memory.write (m.set a (v.setWidth 8)) (a + 1) n (v >>> 8)

/-- `probe(f)`: a pure function of the identification inputs and of `ARCH_APPLICABLE`
(44_capability_entropy.md R221). -/
def probe (p : Params) (i : Ids) (f : Feature) : Bool :=
  p.archApplicable &&
    match f with
    | .crc => i.leaf1.getLsbD 20
    | .fast => i.leaf1.getLsbD 30
    | .ent => decide (7 ≤ i.maxLeaf.toNat) && i.leaf7.getLsbD 18

/-- The state after the evaluation of `cap(f)`: an `unknown` cell gets the probe's answer, any other is kept
(10_state.md R27). -/
def State.afterCap (f : Feature) (s : State) : State :=
  if capCell s.caps f = 0 then { s with caps := setCapCell s.caps f (capAnswer (probe s.par s.ids f)) } else s

/-- The answer of `cap(f)`: whether the cell, filled if it was `unknown`, says `supported` (10_state.md R27). -/
def State.capAvailable (f : Feature) (s : State) : Bool := capCell (s.afterCap f).caps f == 1

/-- One draw from an input: the next scripted value, or the free value of the draw's number (10_state.md R41,
R42: "a fresh draw"; log 6). -/
def Feed.draw {α : Type} (free : Nat → α) (q : Feed α) : α × Feed α :=
  match q.script with
  | a :: rest => (a, { script := rest, used := q.used + 1 })
  | [] => (free q.used, { script := [], used := q.used + 1 })

/-- A feed after `n` draws. -/
def Feed.after {α : Type} (q : Feed α) (n : Nat) : Feed α := ⟨q.script.drop n, q.used + n⟩

/-- `acquire(P, N)`: at most `n` attempts, none after the first that succeeds; the word it delivered, if any, and
the port after the attempts (44_capability_entropy.md R224). -/
def acquire (free : Nat → Attempt) : Nat → Feed Attempt → Option U64 × Feed Attempt
  | 0, q => (none, q)
  | n + 1, q =>
    if (q.draw free).1.ok then (some (q.draw free).1.data, (q.draw free).2)
    else acquire free n (q.draw free).2

/-- `acquire(fast, FAST_ATTEMPTS)` (44_capability_entropy.md R224, R225). -/
def State.acquireFast (s : State) : Option U64 × Feed Attempt :=
  acquire Config.fastDraw s.par.fastAttempts s.fast

/-- `acquire(entropy, ENT_ATTEMPTS)` (44_capability_entropy.md R224, R226). -/
def State.acquireEnt (s : State) : Option U64 × Feed Attempt :=
  acquire Config.entDraw s.par.entAttempts s.ent

/-- The word of `acquireFast` delivered, `STATUS.SRC` = 2 (44_capability_entropy.md R225). -/
def State.deliverFast (s : State) (d : U64) : State :=
  ({ s with fast := s.acquireFast.2 }.withRes0 d).succeed .fast

/-- The word of `acquireEnt` delivered, `STATUS.SRC` = 1 (44_capability_entropy.md R226). -/
def State.deliverEnt (s : State) (d : U64) : State :=
  ({ s with ent := s.acquireEnt.2 }.withRes0 d).succeed .entropy

end Sys2Proof.Machine
end

