-- ==== Sys2Proof/Machine/Mixer.lean ====
section
/-!
DEFINITION. The mixer, combiner and seed expander commands (40_mixer.md). None evaluates `cap`, none can fail (R120).
-/

namespace Sys2Proof.Machine

open Sys2Proof

/-- "XOR-shift-right-n" (40_mixer.md R121; the formula is the spec's, from general knowledge: log 10). -/
def xorShiftRight {w : Nat} (k : BitVec w) (n : Nat) : BitVec w := k ^^^ (k >>> n)

/-- `mix32` (40_mixer.md R122). -/
def mix32 (p : Params) (k : U32) : U32 :=
  xorShiftRight (xorShiftRight (xorShiftRight k 16 * p.mix32C1) 15 * p.mix32C2) 16

/-- `mix64` (40_mixer.md R123). -/
def mix64 (p : Params) (k : U64) : U64 :=
  xorShiftRight (xorShiftRight (xorShiftRight k 30 * p.mix64C1) 27 * p.mix64C2) 31

/-- The combiner's formula at either width (40_mixer.md R125, R126). -/
def combine {w : Nat} (phi seed next : BitVec w) : BitVec w :=
  seed ^^^ (next + phi + (seed <<< 6) + (seed >>> 2))

/-- `expand_step`: the new accumulator and the word delivered; the mix does not write back (40_mixer.md R128). -/
def expandStep (p : Params) (acc : U64) : U64 × U64 := (acc + p.sexpInc, mix64 p (acc + p.sexpInc))

/-- `MIX32` (40_mixer.md R122). -/
def execMix32 (s : State) : Host.Outcome State Fault Refusal :=
  .next (s.withRes0 (mix32 s.par (s.opaLow 32))).succeed

/-- `MIX64` (40_mixer.md R123). -/
def execMix64 (s : State) : Host.Outcome State Fault Refusal :=
  .next (s.withRes0 (mix64 s.par (s.opaLow 64))).succeed

/-- `COMB32` (40_mixer.md R125). -/
def execComb32 (s : State) : Host.Outcome State Fault Refusal :=
  .next (s.withRes0 (combine s.par.phi32 (s.opaLow 32) (s.opbLow 32))).succeed

/-- `COMB64` (40_mixer.md R126). -/
def execComb64 (s : State) : Host.Outcome State Fault Refusal :=
  .next (s.withRes0 (combine s.par.phi64 (s.opaLow 64) (s.opbLow 64))).succeed

/-- `SXNEXT` (40_mixer.md R128). -/
def execSxnext (s : State) : Host.Outcome State Fault Refusal :=
  .next ({ s with sxacc := (expandStep s.par s.sxacc).1 }.withRes0 (expandStep s.par s.sxacc).2).succeed

end Sys2Proof.Machine
end

