-- ==== Sys2Proof/Machine/Capability.lean ====
section
/-!
DEFINITION. `NOP`, the capability query and the entropy commands (44_capability_entropy.md).
-/

namespace Sys2Proof.Machine

open Sys2Proof

/-- `NOP` (44_capability_entropy.md R220). -/
def execNop (s : State) : Host.Outcome State Fault Refusal := .next s.succeed

/-- `CAPQ f` (44_capability_entropy.md R222). -/
def execCapq (f : Feature) (s : State) : Host.Outcome State Fault Refusal :=
  .next ((s.afterCap f).withRes0 (BitVec.ofBool (s.capAvailable f))).succeed

/-- `TRYFAST` after the gate (44_capability_entropy.md R225). -/
def State.tryFast (s : State) : State :=
  match s.acquireFast.1 with
  | some d => s.deliverFast d
  | none => { s with fast := s.acquireFast.2 }.raise .exhausted

/-- `TRYFAST` (44_capability_entropy.md R225). -/
def execTryfast (s : State) : Host.Outcome State Fault Refusal :=
  .next (if s.capAvailable .fast then (s.afterCap .fast).tryFast else (s.afterCap .fast).raise .unavail)

/-- `TRYENT` after the gate (44_capability_entropy.md R226). -/
def State.tryEnt (s : State) : State :=
  match s.acquireEnt.1 with
  | some d => s.deliverEnt d
  | none => { s with ent := s.acquireEnt.2 }.raise .exhausted

/-- `TRYENT` (44_capability_entropy.md R226). -/
def execTryent (s : State) : Host.Outcome State Fault Refusal :=
  .next (if s.capAvailable .ent then (s.afterCap .ent).tryEnt else (s.afterCap .ent).raise .unavail)

/-- The last step of `AUTOSEED`: one sample of `cyc`, mixed (44_capability_entropy.md R231). -/
def State.seedFromCycle (s : State) : State :=
  ({ s with cyc := (s.cyc.draw Config.cycDraw).2 }.withRes0
    (mix64 s.par (s.cyc.draw Config.cycDraw).1)).succeed .cycle

/-- The fast step of `AUTOSEED` and what follows it (44_capability_entropy.md R231). -/
def State.seedFromFast (s : State) : State :=
  if s.capAvailable .fast then
    match (s.afterCap .fast).acquireFast.1 with
    | some d => (s.afterCap .fast).deliverFast d
    | none => { s.afterCap .fast with fast := (s.afterCap .fast).acquireFast.2 }.seedFromCycle
  else (s.afterCap .fast).seedFromCycle

/-- The entropy step of `AUTOSEED` and what follows it (44_capability_entropy.md R231). -/
def State.seedFromEnt (s : State) : State :=
  if s.capAvailable .ent then
    match (s.afterCap .ent).acquireEnt.1 with
    | some d => (s.afterCap .ent).deliverEnt d
    | none => { s.afterCap .ent with ent := (s.afterCap .ent).acquireEnt.2 }.seedFromFast
  else (s.afterCap .ent).seedFromFast

/-- `AUTOSEED` (44_capability_entropy.md R231). -/
def execAutoseed (s : State) : Host.Outcome State Fault Refusal := .next s.seedFromEnt

end Sys2Proof.Machine
end

