-- ==== Sys2Proof/Machine/Crc.lean ====
section
/-!
DEFINITION. The CRC32-C divider and the two buffer hashes (41_crc.md).
-/

namespace Sys2Proof.Machine

open Sys2Proof

/-- One bit of the divider's byte step (41_crc.md R141; the bit order is the spec's, from general knowledge:
log 10). -/
def crcBit (poly c : U32) : U32 := if c.getLsbD 0 then (c >>> 1) ^^^ poly else c >>> 1

/-- `n` bits of the divider (41_crc.md R141). -/
def crcBits (poly : U32) : Nat → U32 → U32
  | 0, c => c
  | n + 1, c => crcBits poly n (crcBit poly c)

/-- `crc_byte(c, b)` (41_crc.md R141). -/
def crcByte (poly : U32) (c : U32) (b : Byte) : U32 := crcBits poly 8 (c ^^^ b.setWidth 32)

/-- `crc_step_N(c, v)` for `N = 8n`: the low `n` bytes of `v`, least significant first (41_crc.md R141). -/
def crcStep (poly : U32) : Nat → U32 → U64 → U32
  | 0, c, _ => c
  | n + 1, c, v => crcStep poly n (crcByte poly c (v.setWidth 8)) (v >>> 8)

/-- A command of this family that has passed the gate `cap(CRC)` does `body`; one that has not does
`raise UNAVAIL`. The cell `cap` wrote stays either way (41_crc.md R140, 10_state.md R27). -/
def gatedByCrc (s : State) (body : State → State) : State :=
  if s.capAvailable .crc then body (s.afterCap .crc) else (s.afterCap .crc).raise .unavail

/-- A single step of width `8n` on `OPA[31:0]` and `OPB` (41_crc.md R143 to R146). -/
def crcCommand (n : Nat) (s : State) : State :=
  gatedByCrc s fun t => (t.withRes0 (crcStep t.par.crcPolyR n (t.opaLow 32) t.opb)).succeed

/-- `CRC8` (41_crc.md R143). -/
def execCrc8 (s : State) : Host.Outcome State Fault Refusal := .next (crcCommand 1 s)

/-- `CRC16` (41_crc.md R144). -/
def execCrc16 (s : State) : Host.Outcome State Fault Refusal := .next (crcCommand 2 s)

/-- `CRC32` (41_crc.md R145). -/
def execCrc32 (s : State) : Host.Outcome State Fault Refusal := .next (crcCommand 4 s)

/-- `CRC64` (41_crc.md R146). -/
def execCrc64 (s : State) : Host.Outcome State Fault Refusal := .next (crcCommand 8 s)

/-- The 8-byte chunks of a range of `k` words from position `i`, as pairs (position, bytes)
(41_crc.md R151: the `while` loop). -/
def wordChunks : Nat → Nat → List (Nat × Nat)
  | 0, _ => []
  | k + 1, i => (i, 8) :: wordChunks k (i + 8)

/-- The tail of 0 to 7 bytes `r` from position `i`: 4, then 2, then 1 byte, each at most once
(41_crc.md R151, R152). -/
def tailChunks (r i : Nat) : List (Nat × Nat) :=
  (if 4 ≤ r then [(i, 4)] else []) ++
  (if 2 ≤ r % 4 then [(i + 4 * (r / 4), 2)] else []) ++
  (if 1 ≤ r % 2 then [(i + 2 * (r / 2), 1)] else [])

/-- The chunks in which `HASH32` and `HASH64` fold `len` bytes (41_crc.md R151, R152). -/
def hashChunks (len : Nat) : List (Nat × Nat) :=
  wordChunks (len / 8) 0 ++ tailChunks (len % 8) (8 * (len / 8))

/-- The value with ones in its low `n` bytes, `2^(8n) - 1` (41_crc.md R152). -/
def byteMask (n : Nat) : U64 := BitVec.ofNat 64 (2 ^ (8 * n) - 1)

/-- `hash32(off, len)` (41_crc.md R151). -/
def hash32 (s : State) (off len : Nat) : U32 :=
  (hashChunks len).foldl (fun c k => crcStep s.par.crcPolyR k.2 c (s.memRead (off + k.1) k.2)) s.par.phi32

/-- The two streams of `hash64`: the second folds the complement, at the chunk's width, of what the first folds
(41_crc.md R152). -/
def hash64Streams (s : State) (off len : Nat) : U32 × U32 :=
  (hashChunks len).foldl
    (fun c k =>
      (crcStep s.par.crcPolyR k.2 c.1 (s.memRead (off + k.1) k.2),
        crcStep s.par.crcPolyR k.2 c.2 (s.memRead (off + k.1) k.2 ^^^ byteMask k.2)))
    (s.par.phi64.extractLsb' 32 32, s.par.phi64.extractLsb' 0 32)

/-- `hash64(off, len)`: `stream1 << 32 | stream2` (41_crc.md R152). -/
def hash64 (s : State) (off len : Nat) : U64 :=
  ((hash64Streams s off len).1.setWidth 64 <<< 32) ||| (hash64Streams s off len).2.setWidth 64

/-- `off ≤ BUF_BYTES` and `len ≤ BUF_BYTES - off`, computed without wrap-around (41_crc.md R150). -/
def hashRangeOk (s : State) : Bool :=
  decide (s.opa.toNat ≤ s.par.bufBytes) && decide (s.opb.toNat ≤ s.par.bufBytes - s.opa.toNat)

/-- A hash command after the gate: `raise RANGE`, or the result of `h` on the range
(41_crc.md R150 to R152). -/
def hashCommand {w : Nat} (h : State → Nat → Nat → BitVec w) (s : State) : State :=
  gatedByCrc s fun t =>
    if hashRangeOk t then (t.withRes0 (h t t.opa.toNat t.opb.toNat)).succeed else t.raise .range

/-- `HASH32` (41_crc.md R151). -/
def execHash32 (s : State) : Host.Outcome State Fault Refusal := .next (hashCommand hash32 s)

/-- `HASH64` (41_crc.md R152). -/
def execHash64 (s : State) : Host.Outcome State Fault Refusal := .next (hashCommand hash64 s)

end Sys2Proof.Machine
end

