-- ==== Sys2Proof/Machine/Prng.lean ====
section
/-!
DEFINITION. The generator commands `GINIT`, `GNEXT`, `GJUMP`, `GUNIF`, `GADOPT` (42_prng.md).
-/

namespace Sys2Proof.Machine

open Sys2Proof

/-- `lin4_W(S, A, B)`: the linear update of a four-word file (42_prng.md R175; the exclusive-or pattern is the
spec's, from general knowledge: log 10). -/
def lin4 {w : Nat} (a b : Nat) (f : Quad w) : Quad w :=
  let t := f.w1 <<< a
  let w2 := f.w2 ^^^ f.w0
  let w3 := f.w3 ^^^ f.w1
  let w1 := f.w1 ^^^ w2
  let w0 := f.w0 ^^^ w3
  ⟨w0, w1, w2 ^^^ t, rotl w3 b⟩

/-- The output of G32 and G64, "rotate-multiply scramble of word 1" (42_prng.md R176, R177). -/
def scramble {w : Nat} (m1 : BitVec w) (r : Nat) (m2 : BitVec w) (f : Quad w) : BitVec w :=
  rotl (f.w1 * m1) r * m2

/-- One step of G32: the output, taken before the update, and the updated file (42_prng.md R175, R176). -/
def stepG32 (p : Params) (f : Quad 32) : U32 × Quad 32 :=
  (scramble p.g32Mul1 p.g32Srot p.g32Mul2 f, lin4 p.g32Shift p.g32Rot f)

/-- One step of G64 (42_prng.md R175, R177). -/
def stepG64 (p : Params) (f : Quad 64) : U64 × Quad 64 :=
  (scramble p.g64Mul1 p.g64Srot p.g64Mul2 f, lin4 p.g64Shift p.g64Rot f)

/-- One step of GF: the additive output and the update of G32 (42_prng.md R175, R179). -/
def stepGf (p : Params) (f : Quad 32) : U32 × Quad 32 :=
  (f.w0 + f.w3, lin4 p.g32Shift p.g32Rot f)

/-- One step of GD: `gd_step` (42_prng.md R178). -/
def stepGd (p : Params) (f : Duo) : U64 × Duo :=
  let x := f.w1 ^^^ f.w0
  (f.w0 + f.w1, ⟨rotl f.w0 p.gdRotA ^^^ x ^^^ (x <<< p.gdShift), rotl x p.gdRotB⟩)

/-- The output of `next(v)`, zero-extended (42_prng.md R180). -/
def State.nextOut (v : Variant) (s : State) : U64 :=
  match v with
  | .g32 => (stepG32 s.par s.g32).1.setWidth 64
  | .g64 => (stepG64 s.par s.g64).1
  | .gf => (stepGf s.par s.gf).1.setWidth 64
  | .gd => (stepGd s.par s.gd).1

/-- The state after `next(v)`: the file of `v` advanced once (42_prng.md R180). -/
def State.advance (v : Variant) (s : State) : State :=
  match v with
  | .g32 => { s with g32 := (stepG32 s.par s.g32).2 }
  | .g64 => { s with g64 := (stepG64 s.par s.g64).2 }
  | .gf => { s with gf := (stepGf s.par s.gf).2 }
  | .gd => { s with gd := (stepGd s.par s.gd).2 }

/-- A command that steps generator `v`: `raise NOINIT` where `GINITED[v]` is 0 (42_prng.md R170). -/
def needsInit (v : Variant) (s : State) (body : State → Host.Outcome State Fault Refusal) :
    Host.Outcome State Fault Refusal :=
  if isInited s.ginited v then body s else .next (s.raise .noinit)

/-- The all-zero guard of `GINIT` on a four-word file (42_prng.md R173). -/
def guardQuad {w : Nat} (phi : BitVec w) (f : Quad w) : Quad w :=
  if f = ⟨0, 0, 0, 0⟩ then { f with w0 := phi } else f

/-- The all-zero guard of `GINIT` on the two-word file (42_prng.md R173). -/
def guardDuo (phi : U64) (f : Duo) : Duo :=
  if f = ⟨0, 0⟩ then { f with w0 := phi } else f

/-- The word of the `n`-th call of the private expander seeded with `seed`, counted from 0, and the accumulator
before it (42_prng.md R172, 40_mixer.md R128). -/
def expanderAcc (p : Params) (seed : U64) : Nat → U64
  | 0 => seed
  | n + 1 => (expandStep p (expanderAcc p seed n)).1

/-- The `n`-th word of the private expander, counted from 0 (42_prng.md R172). -/
def expanderWord (p : Params) (seed : U64) (n : Nat) : U64 := (expandStep p (expanderAcc p seed n)).2

/-- The file `GINIT G32` and `GINIT GF` make: two expander words, low half first, then the guard
(42_prng.md R172, R173). -/
def initQuad32 (p : Params) (seed : U64) : Quad 32 :=
  guardQuad p.phi32
    ⟨(expanderWord p seed 0).extractLsb' 0 32, (expanderWord p seed 0).extractLsb' 32 32,
      (expanderWord p seed 1).extractLsb' 0 32, (expanderWord p seed 1).extractLsb' 32 32⟩

/-- The file `GINIT G64` makes: four expander words, then the guard (42_prng.md R172, R173). -/
def initQuad64 (p : Params) (seed : U64) : Quad 64 :=
  guardQuad p.phi64
    ⟨expanderWord p seed 0, expanderWord p seed 1, expanderWord p seed 2, expanderWord p seed 3⟩

/-- The file `GINIT GD` makes: two expander words, then the guard (42_prng.md R172, R173). -/
def initDuo (p : Params) (seed : U64) : Duo :=
  guardDuo p.phi64 ⟨expanderWord p seed 0, expanderWord p seed 1⟩

/-- The state with the file of `v` replaced by what `init(seed)` makes (42_prng.md R172). -/
def State.initFile (v : Variant) (seed : U64) (s : State) : State :=
  match v with
  | .g32 => { s with g32 := initQuad32 s.par seed }
  | .g64 => { s with g64 := initQuad64 s.par seed }
  | .gf => { s with gf := initQuad32 s.par seed }
  | .gd => { s with gd := initDuo s.par seed }

/-- `GINITED[v] <- 1` (10_state.md R28). -/
def State.markInited (v : Variant) (s : State) : State := { s with ginited := setInited s.ginited v }

/-- `GINIT v` (42_prng.md R172). -/
def execGinit (v : Variant) (s : State) : Host.Outcome State Fault Refusal :=
  .next ((s.initFile v s.opa).markInited v).succeed

/-- `GNEXT v` (42_prng.md R180). -/
def execGnext (v : Variant) (s : State) : Host.Outcome State Fault Refusal :=
  needsInit v s fun t => .next ((t.advance v).withRes0 (t.nextOut v)).succeed

/-- Word by word exclusive or of two four-word files (42_prng.md R182). -/
def xorQuad {w : Nat} (f g : Quad w) : Quad w :=
  ⟨f.w0 ^^^ g.w0, f.w1 ^^^ g.w1, f.w2 ^^^ g.w2, f.w3 ^^^ g.w3⟩

/-- Word by word exclusive or of two two-word files (42_prng.md R182). -/
def xorDuo (f g : Duo) : Duo := ⟨f.w0 ^^^ g.w0, f.w1 ^^^ g.w1⟩

/-- The bits of a word, least significant first (42_prng.md R182). -/
def wordBits {w : Nat} (x : BitVec w) : List Bool := (List.range w).map x.getLsbD

/-- The bits of a four-word jump polynomial: ascending word, then ascending bit (42_prng.md R182). -/
def quadBits {w : Nat} (j : Quad w) : List Bool :=
  wordBits j.w0 ++ wordBits j.w1 ++ wordBits j.w2 ++ wordBits j.w3

/-- The bits of a two-word jump polynomial (42_prng.md R182). -/
def duoBits (j : Duo) : List Bool := wordBits j.w0 ++ wordBits j.w1

/-- The bit walk of `jump(v)`: the accumulator takes in the state at each set bit, and the state advances once at
every bit (42_prng.md R182). -/
def jumpWalk {σ : Type} (add : σ → σ → σ) (adv : σ → σ) : List Bool → σ → σ → σ
  | [], acc, _ => acc
  | b :: bits, acc, st => jumpWalk add adv bits (if b then add acc st else acc) (adv st)

/-- `jump` on a file of G32 or GF (42_prng.md R182). -/
def jumpQuad32 (p : Params) (f : Quad 32) : Quad 32 :=
  jumpWalk xorQuad (lin4 p.g32Shift p.g32Rot) (quadBits p.jumpG32) ⟨0, 0, 0, 0⟩ f

/-- `jump` on a file of G64 (42_prng.md R182). -/
def jumpQuad64 (p : Params) (f : Quad 64) : Quad 64 :=
  jumpWalk xorQuad (lin4 p.g64Shift p.g64Rot) (quadBits p.jumpG64) ⟨0, 0, 0, 0⟩ f

/-- `jump` on a file of GD (42_prng.md R182). -/
def jumpDuo (p : Params) (f : Duo) : Duo :=
  jumpWalk xorDuo (fun g => (stepGd p g).2) (duoBits p.jumpGd) ⟨0, 0⟩ f

/-- The state with the file of `v` jumped (42_prng.md R182). -/
def State.jumpFile (v : Variant) (s : State) : State :=
  match v with
  | .g32 => { s with g32 := jumpQuad32 s.par s.g32 }
  | .g64 => { s with g64 := jumpQuad64 s.par s.g64 }
  | .gf => { s with gf := jumpQuad32 s.par s.gf }
  | .gd => { s with gd := jumpDuo s.par s.gd }

/-- `GJUMP v` (42_prng.md R183). -/
def execGjump (v : Variant) (s : State) : Host.Outcome State Fault Refusal :=
  needsInit v s fun t => .next (t.jumpFile v).succeed

/-- `f32_of(k)`: the binary32 pattern of `k · 2^-24`, for `k < 2^24` (42_prng.md R187). -/
def f32Of (k : U32) : U32 :=
  if k = 0 then 0
  else
    BitVec.ofNat 32
      (((127 + k.toNat.log2 - 24) <<< 23) ||| ((k.toNat <<< (23 - k.toNat.log2)) % 2 ^ 23))

/-- `f64_of(k)`: the binary64 pattern of `k · 2^-53`, for `k < 2^53` (42_prng.md R187). -/
def f64Of (k : U64) : U64 :=
  if k = 0 then 0
  else
    BitVec.ofNat 64
      (((1023 + k.toNat.log2 - 53) <<< 52) ||| ((k.toNat <<< (52 - k.toNat.log2)) % 2 ^ 52))

/-- `GUNIF GF` after the check: 8 bits discarded, the integer and its binary32 pattern (42_prng.md R185). -/
def State.uniformFloat (s : State) : State :=
  let k := (stepGf s.par s.gf).1 >>> 8
  (((s.advance .gf).withRes0 k).withRes1 (f32Of k)).succeed

/-- `GUNIF GD` after the check: 11 bits discarded, the integer and its binary64 pattern (42_prng.md R185). -/
def State.uniformDouble (s : State) : State :=
  let k := (stepGd s.par s.gd).1 >>> 11
  (((s.advance .gd).withRes0 k).withRes1 (f64Of k)).succeed

/-- `GUNIF v` (42_prng.md R185). The words of `GUNIF G32` and `GUNIF G64` are illegal (30_encoding.md R95), and the
decoder never gives these terms; the meaning of the terms is that of the illegal words (log 14). -/
def execGunif (v : Variant) (s : State) : Host.Outcome State Fault Refusal :=
  match v with
  | .g32 => .next (s.raise .illegal)
  | .g64 => .next (s.raise .illegal)
  | .gf => needsInit .gf s fun t => .next t.uniformFloat
  | .gd => needsInit .gd s fun t => .next t.uniformDouble

/-- Whether every word of file `v` is 0 (10_state.md R32, 42_prng.md R186). -/
def State.fileZero (v : Variant) (s : State) : Bool :=
  match v with
  | .g32 => s.g32 == ⟨0, 0, 0, 0⟩
  | .g64 => s.g64 == ⟨0, 0, 0, 0⟩
  | .gf => s.gf == ⟨0, 0, 0, 0⟩
  | .gd => s.gd == ⟨0, 0⟩

/-- `GADOPT v` (42_prng.md R186). -/
def execGadopt (v : Variant) (s : State) : Host.Outcome State Fault Refusal :=
  .next (if s.fileZero v then s.raise .precond else (s.markInited v).succeed)

end Sys2Proof.Machine
end

