-- ==== Sys2Proof/Machine/Sampler.lean ====
section
/-!
DEFINITION. The bounded sampler `GBOUND`, `GRANGE` (43_sampler.md).
-/

namespace Sys2Proof.Machine

open Sys2Proof

/-- `widemul_W(x, limit)`: the exact product (00_scope.md R10). -/
def wideMul {w : Nat} (x limit : BitVec w) : Nat := x.toNat * limit.toNat

/-- `lo_W` of a product (00_scope.md R10). -/
def loHalf (w m : Nat) : Nat := m % 2 ^ w

/-- `hi_W` of a product (00_scope.md R10). -/
def hiHalf (w m : Nat) : BitVec w := BitVec.ofNat w (m / 2 ^ w)

/-- The rejection threshold `t = (2^W - limit) mod limit` (43_sampler.md R210). -/
def threshold {w : Nat} (limit : BitVec w) : Nat := (2 ^ w - limit.toNat) % limit.toNat

/-- The rejection loop, from the last product `m` and the generator after its draw: it redraws while `lo(m) < t`,
at most `n` times; `none` when the bound is reached with every draw rejected (43_sampler.md R210). -/
def redraw {w : Nat} {σ : Type} (draw : σ → BitVec w × σ) (limit : BitVec w) :
    Nat → Nat → σ → Option (BitVec w × σ)
  | 0, m, st => if loHalf w m < threshold limit then none else some (hiHalf w m, st)
  | n + 1, m, st =>
    if loHalf w m < threshold limit then redraw draw limit n (wideMul (draw st).1 limit) (draw st).2
    else some (hiHalf w m, st)

/-- The number of redraws after which the loop can accept nothing any more: a four-word file has `2^(4W)` values, so
that many draws meet every value the generator can reach (70_reset_and_hazards.md R312: no bound is assumed;
log 7). -/
def redrawBound (w : Nat) : Nat := 2 ^ (4 * w)

/-- `bounded(v, limit)` for `limit ≥ 1`: the sample and the generator after the accepted draw; `none` when the loop
never ends (43_sampler.md R210). -/
def bounded {w : Nat} {σ : Type} (draw : σ → BitVec w × σ) (limit : BitVec w) (st : σ) :
    Option (BitVec w × σ) :=
  if loHalf w (wideMul (draw st).1 limit) < limit.toNat then
    redraw draw limit (redrawBound w) (wideMul (draw st).1 limit) (draw st).2
  else some (hiHalf w (wideMul (draw st).1 limit), (draw st).2)

/-- `bounded` on G32, plus `min`, which is 0 for `GBOUND`: the next state, or the loop that never ends
(43_sampler.md R211, R212). -/
def State.sampleG32 (min limit : U32) (s : State) : Host.Outcome State Fault Refusal :=
  match bounded (stepG32 s.par) limit s.g32 with
  | some (r, f) => .next ({ s with g32 := f }.withRes0 (min + r)).succeed
  | none => .fault .samplerDiverges

/-- `bounded` on G64, plus `min` (43_sampler.md R211, R212). -/
def State.sampleG64 (min limit : U64) (s : State) : Host.Outcome State Fault Refusal :=
  match bounded (stepG64 s.par) limit s.g64 with
  | some (r, f) => .next ({ s with g64 := f }.withRes0 (min + r)).succeed
  | none => .fault .samplerDiverges

/-- `GBOUND v` (43_sampler.md R211): `NOINIT`, then `PRECOND` for a limit of 0, before any draw. `GBOUND GF` and
`GBOUND GD` are illegal words (30_encoding.md R95; log 14). -/
def execGbound (v : Variant) (s : State) : Host.Outcome State Fault Refusal :=
  match v with
  | .g32 =>
    needsInit .g32 s fun t =>
      if t.opaLow 32 = 0 then .next (t.raise .precond) else t.sampleG32 0 (t.opaLow 32)
  | .g64 =>
    needsInit .g64 s fun t =>
      if t.opaLow 64 = 0 then .next (t.raise .precond) else t.sampleG64 0 (t.opaLow 64)
  | .gf => .next (s.raise .illegal)
  | .gd => .next (s.raise .illegal)

/-- `GRANGE v` (43_sampler.md R212): `NOINIT`, then `PRECOND` for `max ≤ min`, compared as unsigned, before any
draw. `GRANGE GF` and `GRANGE GD` are illegal words (30_encoding.md R95; log 14). -/
def execGrange (v : Variant) (s : State) : Host.Outcome State Fault Refusal :=
  match v with
  | .g32 =>
    needsInit .g32 s fun t =>
      if t.opbLow 32 ≤ t.opaLow 32 then .next (t.raise .precond)
      else t.sampleG32 (t.opaLow 32) (t.opbLow 32 - t.opaLow 32)
  | .g64 =>
    needsInit .g64 s fun t =>
      if t.opbLow 64 ≤ t.opaLow 64 then .next (t.raise .precond)
      else t.sampleG64 (t.opaLow 64) (t.opbLow 64 - t.opaLow 64)
  | .gf => .next (s.raise .illegal)
  | .gd => .next (s.raise .illegal)

end Sys2Proof.Machine
end

