-- ==== Sys2Proof/Machine/Dispatch.lean ====
section
/-!
DEFINITION. One arm per command (30_encoding.md R93): the meaning of each.
-/

namespace Sys2Proof.Machine

open Sys2Proof

def exec (i : Instr) (s : State) : Host.Outcome State Fault Refusal :=
  match i with
  | .nop => Sys2Proof.Machine.execNop s
  | .mix32 => Sys2Proof.Machine.execMix32 s
  | .mix64 => Sys2Proof.Machine.execMix64 s
  | .comb32 => Sys2Proof.Machine.execComb32 s
  | .comb64 => Sys2Proof.Machine.execComb64 s
  | .sxnext => Sys2Proof.Machine.execSxnext s
  | .crc8 => Sys2Proof.Machine.execCrc8 s
  | .crc16 => Sys2Proof.Machine.execCrc16 s
  | .crc32 => Sys2Proof.Machine.execCrc32 s
  | .crc64 => Sys2Proof.Machine.execCrc64 s
  | .hash32 => Sys2Proof.Machine.execHash32 s
  | .hash64 => Sys2Proof.Machine.execHash64 s
  | .ginit v => Sys2Proof.Machine.execGinit v s
  | .gnext v => Sys2Proof.Machine.execGnext v s
  | .gjump v => Sys2Proof.Machine.execGjump v s
  | .gunif v => Sys2Proof.Machine.execGunif v s
  | .gbound v => Sys2Proof.Machine.execGbound v s
  | .grange v => Sys2Proof.Machine.execGrange v s
  | .gadopt v => Sys2Proof.Machine.execGadopt v s
  | .capq f => Sys2Proof.Machine.execCapq f s
  | .tryfast => Sys2Proof.Machine.execTryfast s
  | .tryent => Sys2Proof.Machine.execTryent s
  | .autoseed => Sys2Proof.Machine.execAutoseed s

end Sys2Proof.Machine
end

