-- ==== Sys2Proof/Machine/Window.lean ====
section
/-!
DEFINITION. The host window (20_memory.md): its address map, the accesses it accepts, what a read returns and what
a write does, and the reset input (70_reset_and_hazards.md R300).
-/

namespace Sys2Proof.Machine

open Sys2Proof

/-- The registers of the window by name (20_memory.md R61). -/
inductive Reg where
  | cmd
  | status
  | opa
  | opb
  | res0
  | res1
  | caps
  | ginited
  | sxacc
  | g32 (i : Fin 4)
  | g64 (i : Fin 4)
  | gf (i : Fin 4)
  | gd (i : Fin 2)
  deriving DecidableEq, Repr

/-- The address map of the register region (20_memory.md R61). -/
def regMap : List (Nat × Reg) :=
  [(0x000, .cmd), (0x008, .status), (0x010, .opa), (0x018, .opb), (0x020, .res0), (0x028, .res1), (0x030, .caps),
    (0x038, .ginited), (0x040, .sxacc),
    (0x100, .g32 0), (0x108, .g32 1), (0x110, .g32 2), (0x118, .g32 3),
    (0x120, .g64 0), (0x128, .g64 1), (0x130, .g64 2), (0x138, .g64 3),
    (0x140, .gf 0), (0x148, .gf 1), (0x150, .gf 2), (0x158, .gf 3),
    (0x160, .gd 0), (0x168, .gd 1)]

/-- The register at an offset; `none` for a reserved offset (20_memory.md R61, R64). -/
def regAt (off : Nat) : Option Reg := (regMap.find? fun e => e.1 == off).map Prod.snd

/-- Word `i` of a four-word file. -/
def quadWord {w : Nat} (f : Quad w) (i : Fin 4) : BitVec w :=
  match i with
  | 0 => f.w0
  | 1 => f.w1
  | 2 => f.w2
  | 3 => f.w3

/-- A four-word file with word `i` replaced. -/
def setQuadWord {w : Nat} (f : Quad w) (i : Fin 4) (x : BitVec w) : Quad w :=
  match i with
  | 0 => { f with w0 := x }
  | 1 => { f with w1 := x }
  | 2 => { f with w2 := x }
  | 3 => { f with w3 := x }

/-- Word `i` of the two-word file. -/
def duoWord (f : Duo) (i : Fin 2) : U64 :=
  match i with
  | 0 => f.w0
  | 1 => f.w1

/-- The two-word file with word `i` replaced. -/
def setDuoWord (f : Duo) (i : Fin 2) (x : U64) : Duo :=
  match i with
  | 0 => { f with w0 := x }
  | 1 => { f with w1 := x }

/-- What a host read of a register returns; a 32-bit state word is zero-extended (10_state.md R33). -/
def State.readReg (s : State) : Reg → U64
  | .cmd => s.cmd
  | .status => s.status
  | .opa => s.opa
  | .opb => s.opb
  | .res0 => s.res0
  | .res1 => s.res1
  | .caps => s.caps
  | .ginited => s.ginited
  | .sxacc => s.sxacc
  | .g32 i => (quadWord s.g32 i).setWidth 64
  | .g64 i => quadWord s.g64 i
  | .gf i => (quadWord s.gf i).setWidth 64
  | .gd i => duoWord s.gd i

/-- Every host write of a state word clears `GINITED[v]` (10_state.md R33). -/
def State.markStale (v : Variant) (s : State) : State := { s with ginited := clearInited s.ginited v }

/-- What a host write of a register stores. Read-only registers ignore it (20_memory.md R64); a 32-bit state word
keeps the low half, and a state word's write clears `GINITED[v]` (10_state.md R33). The write of `CMD` stores the
word; the command it starts is `step`'s (10_state.md R24). -/
def State.writeReg (s : State) (v : U64) : Reg → State
  | .cmd => { s with cmd := v }
  | .status => s
  | .opa => { s with opa := v }
  | .opb => { s with opb := v }
  | .res0 => s
  | .res1 => s
  | .caps => s
  | .ginited => s
  | .sxacc => { s with sxacc := v }
  | .g32 i => { s with g32 := setQuadWord s.g32 i (v.setWidth 32) }.markStale .g32
  | .g64 i => { s with g64 := setQuadWord s.g64 i v }.markStale .g64
  | .gf i => { s with gf := setQuadWord s.gf i (v.setWidth 32) }.markStale .gf
  | .gd i => { s with gd := setDuoWord s.gd i v }.markStale .gd

/-- The offset at which the buffer region starts (20_memory.md R60, R61). -/
def bufBase : Nat := 0x1000

/-- The register region accepts aligned 8-byte accesses only (20_memory.md R62). -/
def regAccessOk (off n : Nat) : Bool := decide (off < bufBase) && decide (n = 8) && decide (off % 8 = 0)

/-- The buffer region accepts naturally aligned accesses of 1, 2, 4 or 8 bytes that lie wholly inside it
(20_memory.md R62). -/
def bufAccessOk (p : Params) (off n : Nat) : Bool :=
  decide (bufBase ≤ off) && decide (off + n ≤ bufBase + p.bufBytes) && decide (n = 1 ∨ n = 2 ∨ n = 4 ∨ n = 8) &&
    decide (off % n = 0)

/-- The data of an accepted read: a register, 0 at a reserved offset, or bytes of `BUF` (20_memory.md R61, R64,
R65). -/
def State.readData (s : State) (off n : Nat) : U64 :=
  if off < bufBase then
    match regAt off with
    | some r => s.readReg r
    | none => 0
  else s.memRead (off - bufBase) n

/-- A host read: the data, or a bus error that changes no state (20_memory.md R62 to R65, R68). -/
def State.hostRead (s : State) (off n : Nat) : State :=
  if regAccessOk off n || bufAccessOk s.par off n then { s with resp := .data (s.readData off n) }
  else { s with resp := .busError }

/-- The state after the data of an accepted write is stored; a write of a reserved offset is ignored
(20_memory.md R64, R65). -/
def State.storeData (s : State) (off n : Nat) (v : U64) : State :=
  if off < bufBase then
    match regAt off with
    | some r => s.writeReg v r
    | none => s
  else { s with buf := s.buf.write (off - bufBase) n v }

/-- A host write, but for the command that a write of `CMD` starts: the value is stored, or a bus error changes no
state (20_memory.md R62 to R65, R68). -/
def State.hostWrite (s : State) (off n : Nat) (v : U64) : State :=
  if regAccessOk off n || bufAccessOk s.par off n then { s.storeData off n v with resp := .accepted }
  else { s with resp := .busError }

/-- Whether an access is a write of the register `CMD` (10_state.md R24). -/
def isCmdAccess (off n : Nat) : Bool := regAccessOk off n && regAt off == some .cmd

/-- The reset input: every register at its reset value, `BUF` unspecified again, and a held `CMD` write abandoned; the
parameters and the sources are not touched, and the accesses that wait stay at the port (70_reset_and_hazards.md R300,
10_state.md R50; log 8). `ids` is what the platform presents from this reset on (00_scope.md R8; log 13). -/
def State.resetBlock (ids : Ids) (s : State) : State :=
  { State.resetWith s.par ids with
    bufGen := s.bufGen + 1, fast := s.fast, ent := s.ent, cyc := s.cyc, port := s.port }

/-- The identification words an event's reset brings; `none` for an access of the window (70_reset_and_hazards.md
R300). -/
def HostEvent.resetIds : HostEvent → Option Ids
  | .read _ _ => none
  | .write _ _ _ => none
  | .reset ids => some ids
  | .abandon _ _ ids => some ids

/-- The first reset among the events at the port, and the events without it. The reset input is no access of the
window, so it does not wait behind the accesses that do (70_reset_and_hazards.md R300; log 8). -/
def takeReset : List HostEvent → Option (Ids × List HostEvent)
  | [] => none
  | e :: rest =>
    match e.resetIds with
    | some ids => some (ids, rest)
    | none => (takeReset rest).map fun r => (r.1, e :: r.2)

end Sys2Proof.Machine
end

