-- ==== Sys2Proof/Machine/Command.lean ====
section
/-!
DEFINITION. A write of `CMD`: the command it runs, the command that never ends, the command a reset abandons
(10_state.md R24, 70_reset_and_hazards.md R300, R312); and what each event at the port does.
-/

namespace Sys2Proof.Machine

open Sys2Proof

/-- The command the word `w` encodes; an illegal word ends `ILLEGAL` and changes nothing else (30_encoding.md
R95). -/
def runCommand (w : U64) (s : State) : Host.Outcome State Fault Refusal :=
  match decodeWord w with
  | some i => exec i s
  | none => .next (s.raise .illegal)

/-- A command that never ends: the `CMD` write that started it is held and gets no answer, and the block accepts no
access until a reset (20_memory.md R67, 70_reset_and_hazards.md R312, U7; log 7). -/
def State.hold (s : State) : State := { s with resp := .idle, held := true }

/-- A write of `CMD` performed to the end of its command, or held where the command has none (10_state.md R24,
70_reset_and_hazards.md R312). -/
def commandStep (w : U64) (s : State) : Host.Outcome State Fault Refusal :=
  match runCommand w s with
  | .next t => .next t
  | .fault .samplerDiverges => .next s.hold
  | .refused r => .refused r

/-- The sources after the first `n` of the draws that a command makes which takes `s` to `t`: first the entropy
source, then the fast source, then `cyc` (the order of 44_capability_entropy.md R231). -/
def State.drawsUpTo (n : Nat) (s t : State) : State :=
  let e := t.ent.used - s.ent.used
  let f := t.fast.used - s.fast.used
  let c := t.cyc.used - s.cyc.used
  { s with
    ent := s.ent.after (min n e), fast := s.fast.after (min (n - e) f), cyc := s.cyc.after (min (n - e - f) c) }

/-- A command abandoned: nothing of it is left but the attempts and samples it had made, `n` at most, which are events
of the environment (70_reset_and_hazards.md R300, 60_exceptions.md R272; log 8). -/
def State.abandonCommand (w : U64) (n : Nat) (s : State) : State :=
  match runCommand w s with
  | .next t => s.drawsUpTo n t
  | .fault _ => s
  | .refused _ => s

/-- The event `e` performed on a state from whose port it has been taken. -/
def perform (e : HostEvent) (s : State) : Host.Outcome State Fault Refusal :=
  match e with
  | .reset ids => .next (s.resetBlock ids)
  | .abandon w n ids => .next ((s.abandonCommand w n).resetBlock ids)
  | .read off n => .next (s.hostRead off n)
  | .write off n v =>
    if isCmdAccess off n then commandStep v (s.hostWrite off n v) else .next (s.hostWrite off n v)

/-- What happens while a `CMD` write is held: a reset that has arrived abandons its command, wherever it stands among
the waiting accesses; without one nothing changes (70_reset_and_hazards.md R300, R312). -/
def State.whileHeld (s : State) : State :=
  match takeReset s.port with
  | some (ids, rest) => { s with port := rest }.resetBlock ids
  | none => s

end Sys2Proof.Machine
end

