-- ==== Sys2Proof/Machine/Step.lean ====
section
/-!
DEFINITION. One step of the machine: the oldest host access at the port is performed, to completion (20_memory.md
R69). A write of `CMD` executes one command (10_state.md R24); with nothing at the port the block does nothing
(70_reset_and_hazards.md R301); while a `CMD` write is held only a reset does anything (R300).
-/

namespace Sys2Proof.Machine

open Sys2Proof

/-- One step: the oldest event at the port, or nothing (20_memory.md R69, 70_reset_and_hazards.md R301; log 3); a reset
alone while a `CMD` write is held (R300, R312; log 7). -/
def step (s : State) : Host.Outcome State Fault Refusal :=
  if s.held then .next s.whileHeld
  else
    match s.port with
    | [] => .next s
    | e :: rest => perform e { s with port := rest }

/-- `s` with a host write of the command word to `CMD` as the next access at the port, and no earlier `CMD` write
held. Log 3. -/
def State.withFetchWord (s : State) (nbits w : Nat) : State :=
  { s with port := .write 0x000 8 (BitVec.ofNat 64 (w % 2 ^ nbits)) :: s.port, held := false }

end Sys2Proof.Machine
end

