-- ==== Sys2Proof/Safety.lean ====
section
/-!
DEFINITION. The terms the statements use: the invariant of the block's registers and buffer, the invariant of its
generators, when a step is safe, and the sequences of draws and attempts that a command would see.
-/

namespace Sys2Proof.Machine

open Sys2Proof

/-- A step is safe when the machine goes on. -/
def StepSafe (s : State) : Prop := ∃ t, step s = .next t

/-- What the spec says of the block's registers and buffer at all times: the reserved fields read 0, the fields
hold only values the spec names, a cached capability agrees with the probe, and `BUF` holds bytes of its own range
only (10_state.md R25, R26, R27, R28, R34). -/
structure State.Inv (s : State) : Prop where
  bufWf : s.buf.wf = true
  bufRange : ∀ c ∈ s.buf, c.1 < s.par.bufBytes
  statusReserved : s.status.extractLsb' 6 58 = 0
  statusCode : (codeField s.status).toNat ≤ 6
  statusSource : srcField s.status ≠ 0 → codeField s.status = 0
  capsReserved : s.caps.extractLsb' 6 58 = 0
  capsCell : ∀ f, capCell s.caps f ≠ 3
  capsSupported : ∀ f, capCell s.caps f = 1 → probe s.par s.ids f = true
  capsUnsupported : ∀ f, capCell s.caps f = 2 → probe s.par s.ids f = false
  ginitedReserved : s.ginited.extractLsb' 4 60 = 0

/-- The invariant of initialised generators: where `GINITED[v]` is 1, the words of file `v` are not all zero
(10_state.md R32). -/
def State.GeneratorsNonzero (s : State) : Prop :=
  ∀ v, isInited s.ginited v = true → s.fileZero v = false

/-- The words of the opcode table, `OP(M) | v << 8` for each legal selector `v` of each row (30_encoding.md R93,
R94). -/
def legalWords : List U64 :=
  [0x000, 0x001, 0x002, 0x003, 0x004, 0x005, 0x010, 0x011, 0x012, 0x013, 0x014, 0x015,
    0x020, 0x120, 0x220, 0x320, 0x021, 0x121, 0x221, 0x321, 0x022, 0x122, 0x222, 0x322, 0x223, 0x323,
    0x024, 0x124, 0x025, 0x125, 0x026, 0x126, 0x226, 0x326, 0x030, 0x130, 0x230, 0x031, 0x032, 0x033]

/-- The file of G32 after `n` steps of `next` (42_prng.md R180). -/
def State.fileG32After (s : State) (n : Nat) : Quad 32 := (fun f => (stepG32 s.par f).2)^[n] s.g32

/-- The raw word of draw `n` of G32, counted from 0 (42_prng.md R180). -/
def State.drawG32 (s : State) (n : Nat) : U32 := (stepG32 s.par (s.fileG32After n)).1

/-- The file of G64 after `n` steps of `next` (42_prng.md R180). -/
def State.fileG64After (s : State) (n : Nat) : Quad 64 := (fun f => (stepG64 s.par f).2)^[n] s.g64

/-- The raw word of draw `n` of G64, counted from 0 (42_prng.md R180). -/
def State.drawG64 (s : State) (n : Nat) : U64 := (stepG64 s.par (s.fileG64After n)).1

/-- Draw `x` is rejected for `limit`: the low half of the product is below `(2^W - limit) mod limit`
(43_sampler.md R210). -/
def Rejected {w : Nat} (limit x : BitVec w) : Prop :=
  (x.toNat * limit.toNat) % 2 ^ w < (2 ^ w - limit.toNat) % limit.toNat

/-- The sample of an accepted draw `x`: the high half of the product (43_sampler.md R210). -/
def highHalf {w : Nat} (limit x : BitVec w) : BitVec w := BitVec.ofNat w (x.toNat * limit.toNat / 2 ^ w)

/-- The answer of a feed to its draw number `j`, counted from 0: scripted, or free (10_state.md R42). -/
def Feed.answer {α : Type} (free : Nat → α) (q : Feed α) (j : Nat) : α := (q.script[j]?).getD (free (q.used + j))

end Sys2Proof.Machine
end

