-- ==== Sys2Proof/Certificates/Slice0/Obligations.lean ====
section
/-!
DEFINITION. The statements for the provers, each of a rule of spec/ or of what follows from several.

`s.capAvailable f` and `s.afterCap f` are the answer of `cap(f)` and the state it leaves; what they are is stated by
`CapabilityIsProbedOnceThenCached`. A status word is written `CODE + 16 * SRC` (10_state.md R25). `s.held = false` says
that no earlier `CMD` write is held by a command that never ends (log 7).
-/

open Sys2Proof Sys2Proof.Machine

/-! ### Decoding -/

/-- 30_encoding.md R94: decoding is total and exact, over all words and all commands. -/
def Obligations.DecodeIsExactlyTheInverseOfEncode : Prop :=
  ∀ (w : U64) (i : Instr), decodeWord w = some i ↔ i.wellFormed = true ∧ encode i = w

/-- 30_encoding.md R93, R95, R96: the legal words are the 40 of the opcode table; a word outside them is illegal. -/
def Obligations.LegalWordsAreTheTablesForty : Prop :=
  ∀ w : U64, (decodeWord w).isSome = true ↔ w ∈ legalWords

/-- 30_encoding.md R93, R94: words written out from the encoding decode to the commands they stand for. -/
def Obligations.WrittenOutWordsDecode : Prop :=
  decodeWord 0x0000000000000121 = some (.gnext .g64) ∧ decodeWord 0x0000000000000323 = some (.gunif .gd) ∧
    decodeWord 0x0000000000000125 = some (.grange .g64) ∧ decodeWord 0x0000000000000230 = some (.capq .ent) ∧
    decodeWord 0x0000000000000015 = some .hash64 ∧ decodeWord 0x0000000000000023 = none ∧
    decodeWord 0x0000000000000421 = none ∧ decodeWord 0x000000000000007F = none

/-! ### The port: how a step runs -/

/-- 10_state.md R24: a write of `CMD` stores the word and runs the command it encodes. The access leaves the port and
is answered `accepted`, and the step is what `exec` gives; a command that never ends leaves its write unanswered and
held. That the access waits in the state, how it is answered, and how it is held, is the model's choice: logs 3, 4
and 7. -/
def Obligations.StepRunsTheDecodedCommand : Prop :=
  ∀ (s : State) (w : U64) (rest : List HostEvent) (i : Instr),
    s.held = false → s.port = .write 0x000 8 w :: rest → decodeWord w = some i →
      let u : State := { s with port := rest, cmd := w, resp := .accepted }
      (∀ t, exec i u = .next t → step s = .next t) ∧
      (exec i u = .fault .samplerDiverges → step s = .next { u with resp := .idle, held := true }) ∧
      ((∃ t, exec i u = .next t) ∨ exec i u = .fault .samplerDiverges)

/-- 30_encoding.md R95: a word outside the table ends `ILLEGAL`; `CMD` stores it; nothing else changes (the access
leaves the port and is answered `accepted`). -/
def Obligations.IllegalWordRaisesIllegal : Prop :=
  ∀ (s : State) (w : U64) (rest : List HostEvent),
    s.held = false → s.port = .write 0x000 8 w :: rest → w ∉ legalWords →
      step s = .next { s with port := rest, cmd := w, resp := .accepted, status := 5 }

/-- A term that is no command of the block (`GUNIF` on an integer generator, the sampler on a float one) means what
its illegal word means. The model's choice for terms the decoder never gives: log 14. -/
def Obligations.IllFormedTermsMeanIllegal : Prop :=
  ∀ (s : State) (i : Instr), i.wellFormed = false → exec i s = .next { s with status := 5 }

/-- 20_memory.md R67, R69, 70_reset_and_hazards.md R301: with no host access the block does nothing; otherwise a step
takes exactly the oldest event from the port, and the events behind it have no part in what it does; while a `CMD`
write is held no access of the window is performed. That the accesses wait in the state is the model's choice: logs 3
and 7. -/
def Obligations.AccessesArePerformedInOrder : Prop :=
  ∀ s : State,
    (s.port = [] → step s = .next s) ∧
    (s.held = true → (∀ e ∈ s.port, e.resetIds = none) → step s = .next s) ∧
    ∀ (e : HostEvent) (rest : List HostEvent) (t : State), s.held = false → s.port = e :: rest → step s = .next t →
      t.port = rest ∧
      ∀ more, step { s with port := e :: (rest ++ more) } = .next { t with port := rest ++ more }

/-- 20_memory.md R63: an access that R62 does not accept gets a bus error, changes no state, and leaves `STATUS`. -/
def Obligations.RefusedAccessIsABusError : Prop :=
  ∀ (s : State) (off n : Nat) (v : U64) (rest : List HostEvent), s.held = false →
    ¬ (off < 0x1000 ∧ n = 8 ∧ 8 ∣ off) →
    ¬ (0x1000 ≤ off ∧ off + n ≤ 0x1000 + s.par.bufBytes ∧ (n = 1 ∨ n = 2 ∨ n = 4 ∨ n = 8) ∧ n ∣ off) →
      (s.port = .read off n :: rest → step s = .next { s with port := rest, resp := .busError }) ∧
      (s.port = .write off n v :: rest → step s = .next { s with port := rest, resp := .busError })

/-- 20_memory.md R61, R64, 10_state.md R33: what a read of each offset of the register region returns; a reserved
offset reads 0; a read changes nothing but the port's answer. -/
def Obligations.RegisterReadsFollowTheMap : Prop :=
  ∀ (s : State) (off : Nat) (rest : List HostEvent),
    s.held = false → s.port = .read off 8 :: rest → off < 0x1000 → 8 ∣ off →
    step s = .next { s with port := rest, resp := .data (
      if off = 0x000 then s.cmd else if off = 0x008 then s.status else if off = 0x010 then s.opa
      else if off = 0x018 then s.opb else if off = 0x020 then s.res0 else if off = 0x028 then s.res1
      else if off = 0x030 then s.caps else if off = 0x038 then s.ginited else if off = 0x040 then s.sxacc
      else if off = 0x100 then s.g32.w0.setWidth 64 else if off = 0x108 then s.g32.w1.setWidth 64
      else if off = 0x110 then s.g32.w2.setWidth 64 else if off = 0x118 then s.g32.w3.setWidth 64
      else if off = 0x120 then s.g64.w0 else if off = 0x128 then s.g64.w1
      else if off = 0x130 then s.g64.w2 else if off = 0x138 then s.g64.w3
      else if off = 0x140 then s.gf.w0.setWidth 64 else if off = 0x148 then s.gf.w1.setWidth 64
      else if off = 0x150 then s.gf.w2.setWidth 64 else if off = 0x158 then s.gf.w3.setWidth 64
      else if off = 0x160 then s.gd.w0 else if off = 0x168 then s.gd.w1 else 0) }

/-- 20_memory.md R61, R64, R68: writes of `OPA`, `OPB`, `SXACC` store; writes of a read-only register or of a reserved
offset are accepted and ignored. -/
def Obligations.RegisterWritesStoreOrAreIgnored : Prop :=
  ∀ (s : State) (off : Nat) (v : U64) (rest : List HostEvent),
    s.held = false → s.port = .write off 8 v :: rest → off < 0x1000 → 8 ∣ off →
      (off = 0x010 → step s = .next { s with port := rest, resp := .accepted, opa := v }) ∧
      (off = 0x018 → step s = .next { s with port := rest, resp := .accepted, opb := v }) ∧
      (off = 0x040 → step s = .next { s with port := rest, resp := .accepted, sxacc := v }) ∧
      (off ≠ 0x000 → off ≠ 0x010 → off ≠ 0x018 → off ≠ 0x040 → ¬ (0x100 ≤ off ∧ off ≤ 0x168) →
        step s = .next { s with port := rest, resp := .accepted })

/-- 10_state.md R33: a write of a state word stores it (the low half, in a 32-bit file) and clears `GINITED` of its
file; it changes nothing else. -/
def Obligations.StateWordWritesClearGinited : Prop :=
  ∀ (s : State) (off : Nat) (v : U64) (rest : List HostEvent), s.held = false → s.port = .write off 8 v :: rest →
    (let g := s.ginited &&& ~~~(1 : U64)
     let x : U32 := v.setWidth 32
     (off = 0x100 → step s = .next
        { s with port := rest, resp := .accepted, ginited := g, g32 := { s.g32 with w0 := x } }) ∧
     (off = 0x108 → step s = .next
        { s with port := rest, resp := .accepted, ginited := g, g32 := { s.g32 with w1 := x } }) ∧
     (off = 0x110 → step s = .next
        { s with port := rest, resp := .accepted, ginited := g, g32 := { s.g32 with w2 := x } }) ∧
     (off = 0x118 → step s = .next
        { s with port := rest, resp := .accepted, ginited := g, g32 := { s.g32 with w3 := x } })) ∧
    (let g := s.ginited &&& ~~~(2 : U64)
     (off = 0x120 → step s = .next
        { s with port := rest, resp := .accepted, ginited := g, g64 := { s.g64 with w0 := v } }) ∧
     (off = 0x128 → step s = .next
        { s with port := rest, resp := .accepted, ginited := g, g64 := { s.g64 with w1 := v } }) ∧
     (off = 0x130 → step s = .next
        { s with port := rest, resp := .accepted, ginited := g, g64 := { s.g64 with w2 := v } }) ∧
     (off = 0x138 → step s = .next
        { s with port := rest, resp := .accepted, ginited := g, g64 := { s.g64 with w3 := v } })) ∧
    (let g := s.ginited &&& ~~~(4 : U64)
     let x : U32 := v.setWidth 32
     (off = 0x140 → step s = .next
        { s with port := rest, resp := .accepted, ginited := g, gf := { s.gf with w0 := x } }) ∧
     (off = 0x148 → step s = .next
        { s with port := rest, resp := .accepted, ginited := g, gf := { s.gf with w1 := x } }) ∧
     (off = 0x150 → step s = .next
        { s with port := rest, resp := .accepted, ginited := g, gf := { s.gf with w2 := x } }) ∧
     (off = 0x158 → step s = .next
        { s with port := rest, resp := .accepted, ginited := g, gf := { s.gf with w3 := x } })) ∧
    (let g := s.ginited &&& ~~~(8 : U64)
     (off = 0x160 → step s = .next
        { s with port := rest, resp := .accepted, ginited := g, gd := { s.gd with w0 := v } }) ∧
     (off = 0x168 → step s = .next
        { s with port := rest, resp := .accepted, ginited := g, gd := { s.gd with w1 := v } }))

/-- 20_memory.md R65: a host write of `n` bytes puts byte `i` of the value at offset `a + i`, leaves every other byte
and every register as they were; a host read returns the little-endian sum of the bytes. -/
def Obligations.BufferAccessesAreLittleEndian : Prop :=
  ∀ (s : State) (a n : Nat) (v : U64) (rest : List HostEvent),
    s.held = false → (n = 1 ∨ n = 2 ∨ n = 4 ∨ n = 8) → n ∣ a → a + n ≤ s.par.bufBytes →
      (s.port = .write (0x1000 + a) n v :: rest →
        ∃ t, step s = .next t ∧ t = { s with port := rest, resp := .accepted, buf := t.buf } ∧
          (∀ i, i < n → t.bufByte (a + i) = v.extractLsb' (8 * i) 8) ∧
          ∀ b, b < a ∨ a + n ≤ b → t.bufByte b = s.bufByte b) ∧
      (s.port = .read (0x1000 + a) n :: rest →
        ∃ x : U64, step s = .next { s with port := rest, resp := .data x } ∧
          x.toNat = ∑ i ∈ Finset.range n, (s.bufByte (a + i)).toNat * 2 ^ (8 * i))

/-! ### Reset -/

/-- 10_state.md R50: every register after reset, whatever the parameters and the identification words; no byte of
`BUF` has been written. -/
def Obligations.ResetPutsEveryRegisterAtItsValue : Prop :=
  ∀ (p : Params) (i : Ids),
    let s := State.resetWith p i
    s.cmd = 0 ∧ s.status = 0 ∧ s.opa = 0 ∧ s.opb = 0 ∧ s.res0 = 0 ∧ s.res1 = 0 ∧ s.caps = 0 ∧ s.ginited = 0 ∧
      s.sxacc = 0 ∧ s.g32 = ⟨0, 0, 0, 0⟩ ∧ s.g64 = ⟨0, 0, 0, 0⟩ ∧ s.gf = ⟨0, 0, 0, 0⟩ ∧ s.gd = ⟨0, 0⟩ ∧
      ∀ a, s.buf.get? a = none

/-- 70_reset_and_hazards.md R300, 00_scope.md R8: the reset input puts every register at its reset value whatever the
block was doing: idle, in a command that never ends (and then wherever the reset stands among the waiting accesses), or
in a command that it abandons, of which nothing is left but the first `n` of the draws it would have made, the entropy
source before the fast source before `cyc` (60_exceptions.md R272, 44_capability_entropy.md R231); the parameters are not
touched, and the identification words are those the platform presents from then on. That the accesses that wait stay at
the port, that the unwritten bytes take a new generation of free values, and how an abandoned command's draws are
counted, is the model's: logs 5, 8 and 13. -/
def Obligations.ResetEventResetsTheBlock : Prop :=
  let cleared := fun (s : State) (ids : Ids) (rest : List HostEvent) =>
    ({ cmd := 0, status := 0, opa := 0, opb := 0, res0 := 0, res1 := 0, caps := 0, ginited := 0, sxacc := 0,
       g32 := ⟨0, 0, 0, 0⟩, g64 := ⟨0, 0, 0, 0⟩, gf := ⟨0, 0, 0, 0⟩, gd := ⟨0, 0⟩, buf := [],
       bufGen := s.bufGen + 1, par := s.par, ids := ids, fast := s.fast, ent := s.ent, cyc := s.cyc,
       port := rest, resp := .idle, held := false } : State)
  (∀ (s : State) (ids : Ids) (rest : List HostEvent), s.held = false → s.port = .reset ids :: rest →
    step s = .next (cleared s ids rest)) ∧
  (∀ (s : State) (a b : List HostEvent) (e : HostEvent) (ids : Ids), s.held = true → s.port = a ++ e :: b →
    (∀ x ∈ a, x.resetIds = none) → e.resetIds = some ids → step s = .next (cleared s ids (a ++ b))) ∧
  ∀ (s : State) (w : U64) (n : Nat) (ids : Ids) (rest : List HostEvent),
    s.held = false → s.port = .abandon w n ids :: rest →
      ∃ x y z, step s = .next
          { cleared s ids rest with ent := s.ent.after x, fast := s.fast.after y, cyc := s.cyc.after z } ∧
        (decodeWord w = none → x + y + z = 0) ∧
        ∀ i, decodeWord w = some i →
          (exec i { s with port := rest } = .fault .samplerDiverges → x + y + z = 0) ∧
          ∀ t, exec i { s with port := rest } = .next t →
            x + y + z = min n ((t.ent.used - s.ent.used) + (t.fast.used - s.fast.used) + (t.cyc.used - s.cyc.used)) ∧
            s.ent.used + x ≤ t.ent.used ∧ s.fast.used + y ≤ t.fast.used ∧ s.cyc.used + z ≤ t.cyc.used ∧
            (0 < y ∨ 0 < z → t.ent = s.ent.after x) ∧ (0 < z → t.fast = s.fast.after y)

/-! ### Mixer, combiner, expander -/

/-- 44_capability_entropy.md R220: `NOP` writes `STATUS` and nothing else, and it is the only such command: every
other one changes more in some state. -/
def Obligations.NopWritesOnlyStatus : Prop :=
  decodeWord 0 = some .nop ∧ (∀ p i, (State.resetWith p i).cmd = 0) ∧
    (∀ s : State, exec .nop s = .next { s with status := 0 }) ∧
    ∀ i : Instr, i.wellFormed = true → i ≠ .nop →
      ∃ s t : State, exec i s = .next t ∧ t ≠ { s with status := t.status }

/-- 40_mixer.md R122. -/
def Obligations.Mix32MixesTheLowHalf : Prop :=
  decodeWord 0x01 = some .mix32 ∧
  (∀ s : State,
    let k0 : U32 := s.opa.setWidth 32
    let k1 := k0 ^^^ (k0 >>> 16)
    let k2 := k1 * s.par.mix32C1
    let k3 := k2 ^^^ (k2 >>> 15)
    let k4 := k3 * s.par.mix32C2
    let k5 := k4 ^^^ (k4 >>> 16)
    exec .mix32 s = .next { s with res0 := k5.setWidth 64, status := 0 }) ∧
  (∀ s : State, s.opa.setWidth 32 = (0 : U32) → exec .mix32 s = .next { s with res0 := 0, status := 0 }) ∧
  ∀ s : State, s.par = Params.candidate → s.opa = 1 →
    exec .mix32 s = .next { s with res0 := 0x688990C0, status := 0 }

/-- 40_mixer.md R123. -/
def Obligations.Mix64MixesTheOperand : Prop :=
  decodeWord 0x02 = some .mix64 ∧
  (∀ s : State,
    let k1 := s.opa ^^^ (s.opa >>> 30)
    let k2 := k1 * s.par.mix64C1
    let k3 := k2 ^^^ (k2 >>> 27)
    let k4 := k3 * s.par.mix64C2
    let k5 := k4 ^^^ (k4 >>> 31)
    exec .mix64 s = .next { s with res0 := k5, status := 0 }) ∧
  (∀ s : State, s.opa = 0 → exec .mix64 s = .next { s with res0 := 0, status := 0 }) ∧
  ∀ s : State, s.par = Params.candidate → s.opa = 1 →
    exec .mix64 s = .next { s with res0 := 0x5692161D100B05E5, status := 0 }

/-- 40_mixer.md R124 (a) and (b): the mixers fix 0 for every parameter value, and are bijections when their
multipliers are odd, as those of P0 are. -/
def Obligations.MixersFixZeroAndAreBijections : Prop :=
  (Params.candidate.mix32C1.getLsbD 0 = true ∧ Params.candidate.mix32C2.getLsbD 0 = true ∧
    Params.candidate.mix64C1.getLsbD 0 = true ∧ Params.candidate.mix64C2.getLsbD 0 = true) ∧
  ∀ p : Params,
    mix32 p 0 = 0 ∧ mix64 p 0 = 0 ∧
    (p.mix32C1.getLsbD 0 = true → p.mix32C2.getLsbD 0 = true → Function.Bijective (mix32 p)) ∧
    (p.mix64C1.getLsbD 0 = true → p.mix64C2.getLsbD 0 = true → Function.Bijective (mix64 p))

/-- 40_mixer.md R125, R126. -/
def Obligations.CombineFoldsSeedAndNext : Prop :=
  decodeWord 0x03 = some .comb32 ∧ decodeWord 0x04 = some .comb64 ∧
  (∀ s : State,
    let seed : U32 := s.opa.setWidth 32
    let next : U32 := s.opb.setWidth 32
    exec .comb32 s = .next
      { s with res0 := (seed ^^^ (next + s.par.phi32 + (seed <<< 6) + (seed >>> 2))).setWidth 64, status := 0 }) ∧
  (∀ s : State, exec .comb64 s = .next
      { s with res0 := s.opa ^^^ (s.opb + s.par.phi64 + (s.opa <<< 6) + (s.opa >>> 2)), status := 0 }) ∧
  (∀ s : State, s.opa = 0 → s.opb = 0 →
    exec .comb32 s = .next { s with res0 := s.par.phi32.setWidth 64, status := 0 } ∧
    exec .comb64 s = .next { s with res0 := s.par.phi64, status := 0 }) ∧
  (∀ s : State, s.par = Params.candidate →
    (s.opa = 1 → s.opb = 2 → exec .comb32 s = .next { s with res0 := 0x9E3779FA, status := 0 } ∧
      exec .comb64 s = .next { s with res0 := 0x9E3779B97F4A7C56, status := 0 }) ∧
    (s.opa = 2 → s.opb = 1 → exec .comb32 s = .next { s with res0 := 0x9E377A38, status := 0 } ∧
      exec .comb64 s = .next { s with res0 := 0x9E3779B97F4A7C94, status := 0 }) ∧
    (s.opa = 0xFFFFFFFFFFFFFFFF → s.opb = 0xFFFFFFFFFFFFFFFF →
      exec .comb32 s = .next { s with res0 := 0x21C88688, status := 0 } ∧
      exec .comb64 s = .next { s with res0 := 0x21C8864680B5842C, status := 0 }))

/-- 40_mixer.md R128: the add comes first and is kept, the mix is delivered; with odd multipliers the word is 0
exactly when the new accumulator is. -/
def Obligations.SxnextAddsThenMixes : Prop :=
  decodeWord 0x05 = some .sxnext ∧
  (∀ s : State, exec .sxnext s = .next
    { s with sxacc := s.sxacc + s.par.sexpInc, res0 := mix64 s.par (s.sxacc + s.par.sexpInc), status := 0 }) ∧
  (∀ s : State, s.par.mix64C1.getLsbD 0 = true → s.par.mix64C2.getLsbD 0 = true →
    ∀ t, exec .sxnext s = .next t → (t.res0 = 0 ↔ s.sxacc + s.par.sexpInc = 0)) ∧
  ∀ s : State, s.par = Params.candidate →
    (s.sxacc = 0 → exec .sxnext s = .next
      { s with sxacc := 0x9E3779B97F4A7C15, res0 := 0xE220A8397B1DCDAF, status := 0 }) ∧
    (s.sxacc = 0xDAA66D2C7DDF743F → exec .sxnext s = .next
      { s with sxacc := 0x78DDE6E5FD29F054, res0 := 0xF88BB8A8724C81EC, status := 0 })

/-- 40_mixer.md R129: output `n + 1` after seeding is the mix of `seed + (n + 1) * SEXP_INC`; with an odd increment
the accumulator visits every value within `2^64` steps. -/
def Obligations.ExpanderOutputsFollowTheAccumulator : Prop :=
  (∀ (s : State) (n : Nat), s.held = false → s.port = List.replicate (n + 1) (.write 0x000 8 0x05) →
    ∃ t, Host.Core.run Sys2Proof.core (n + 1) s = .next t ∧
      t.sxacc = s.sxacc + BitVec.ofNat 64 (n + 1) * s.par.sexpInc ∧
      t.res0 = mix64 s.par (s.sxacc + BitVec.ofNat 64 (n + 1) * s.par.sexpInc) ∧ t.status = 0) ∧
  ∀ (p : Params), p.sexpInc.getLsbD 0 = true → ∀ seed x : U64,
    ∃ n, n < 2 ^ 64 ∧ seed + BitVec.ofNat 64 n * p.sexpInc = x

/-! ### The CRC divider and the hashes -/

/-- 41_crc.md R141: the byte step bit by bit, and a step of `n` bytes as byte steps from the least significant byte on;
the public check value. -/
def Obligations.CrcStepDividesByteByByte : Prop :=
  (∀ (poly c : U32) (b : Byte), crcByte poly c b =
    (fun c : U32 => if c.getLsbD 0 then (c >>> 1) ^^^ poly else c >>> 1)^[8] (c ^^^ b.setWidth 32)) ∧
  (∀ (poly : U32) (n : Nat) (c : U32) (v : U64), n ≤ 8 → crcStep poly n c v =
    (List.range n).foldl (fun c i => crcByte poly c (v.extractLsb' (8 * i) 8)) c) ∧
  ~~~(crcStep 0x82F63B78 1 (crcStep 0x82F63B78 8 0xFFFFFFFF 0x3837363534333231) 0x39) = 0xE3069283

/-- 41_crc.md R142 (a) to (d): the laws of the divider, for every polynomial. -/
def Obligations.CrcDividerLaws : Prop :=
  ∀ poly : U32,
    (∀ (c : U32) (v : U64),
      crcStep poly 2 c v = crcByte poly (crcByte poly c (v.extractLsb' 0 8)) (v.extractLsb' 8 8) ∧
      crcStep poly 4 c v = crcStep poly 2 (crcStep poly 2 c v) (v >>> 16) ∧
      crcStep poly 8 c v = crcStep poly 4 (crcStep poly 4 c v) (v >>> 32)) ∧
    (∀ n, crcStep poly n 0 0 = 0) ∧
    (∀ (n : Nat) (c : U32) (v : BitVec (8 * n)), n ≤ 4 →
      crcStep poly n c (v.setWidth 64) = crcStep poly n (c ^^^ v.setWidth 32) 0) ∧
    (∀ (n : Nat) (c1 c2 : U32) (v1 v2 : U64),
      crcStep poly n (c1 ^^^ c2) (v1 ^^^ v2) = crcStep poly n c1 v1 ^^^ crcStep poly n c2 v2)

/-- 41_crc.md R143 to R146: where the divider may be used, each single step delivers the division of its operand, the
unused bits of `OPA` and `OPB` ignored; where it may not, it ends `UNAVAIL`. The last lines are the rules' examples. -/
def Obligations.CrcCommandsDeliverOneStep : Prop :=
  decodeWord 0x10 = some .crc8 ∧ decodeWord 0x11 = some .crc16 ∧ decodeWord 0x12 = some .crc32 ∧
  decodeWord 0x13 = some .crc64 ∧
  (∀ s : State, s.capAvailable .crc = true →
    let step := fun (n : Nat) (v : U64) => (crcStep s.par.crcPolyR n (s.opa.setWidth 32) v).setWidth 64
    exec .crc8 s = .next { s.afterCap .crc with res0 := step 1 ((s.opb.setWidth 8).setWidth 64), status := 0 } ∧
    exec .crc16 s = .next { s.afterCap .crc with res0 := step 2 ((s.opb.setWidth 16).setWidth 64), status := 0 } ∧
    exec .crc32 s = .next { s.afterCap .crc with res0 := step 4 ((s.opb.setWidth 32).setWidth 64), status := 0 } ∧
    exec .crc64 s = .next { s.afterCap .crc with res0 := step 8 s.opb, status := 0 }) ∧
  (∀ (s : State) (i : Instr), i ∈ [Instr.crc8, .crc16, .crc32, .crc64] → s.capAvailable .crc = false →
    exec i s = .next { s.afterCap .crc with status := 1 }) ∧
  let poly := Params.candidate.crcPolyR
  crcStep poly 1 0 0x01 = 0xF26B8303 ∧ crcStep poly 1 0 0x80 = 0x82F63B78 ∧
    crcStep poly 1 0xFFFFFFFF 0x31 = 0x6F0A661C ∧ crcStep poly 2 0xFFFFFFFF 0x3231 = 0x8CAA3B9F ∧
    crcStep poly 4 0xFFFFFFFF 0x34333231 = 0x09C50B11 ∧ crcStep poly 4 0x12345678 0x9ABCDEF0 = 0x796AB9A9 ∧
    crcStep poly 4 0x88888888 0 = 0x796AB9A9 ∧ crcStep poly 8 0xFFFFFFFF 0x3837363534333231 = 0x9F787F65 ∧
    crcStep poly 1 0x9F787F65 0x39 = 0x1CF96D7C

/-- 41_crc.md R140, 60_exceptions.md R271: where the divider may not be used, every command of the family ends
`UNAVAIL`, before any check of its operands; the cell `cap` wrote stays. -/
def Obligations.CrcGateRaisesUnavail : Prop :=
  ∀ (s : State) (i : Instr), i ∈ [Instr.crc8, .crc16, .crc32, .crc64, .hash32, .hash64] →
    s.capAvailable .crc = false → exec i s = .next { s.afterCap .crc with status := 1 }

/-- 41_crc.md R150: a range that leaves the buffer ends `RANGE`; one that stays inside completes, an empty one at every
offset up to `BUF_BYTES`, with the φ words of R151 and R152. That a range which holds bytes not written since reset
completes too, where 10_state.md R50 has a model refuse it, is the model's choice: log 5. -/
def Obligations.HashChecksItsRange : Prop :=
  ∀ s : State, s.capAvailable .crc = true →
    ((s.opa.toNat > s.par.bufBytes ∨ s.opb.toNat > s.par.bufBytes - s.opa.toNat) →
      exec .hash32 s = .next { s.afterCap .crc with status := 6 } ∧
      exec .hash64 s = .next { s.afterCap .crc with status := 6 }) ∧
    (s.opa.toNat ≤ s.par.bufBytes → s.opb.toNat ≤ s.par.bufBytes - s.opa.toNat →
      (∃ x : U32, exec .hash32 s = .next { s.afterCap .crc with res0 := x.setWidth 64, status := 0 }) ∧
      (∃ y : U64, exec .hash64 s = .next { s.afterCap .crc with res0 := y, status := 0 })) ∧
    (s.opb = 0 → s.opa.toNat ≤ s.par.bufBytes →
      exec .hash32 s = .next { s.afterCap .crc with res0 := s.par.phi32.setWidth 64, status := 0 } ∧
      exec .hash64 s = .next { s.afterCap .crc with res0 := s.par.phi64, status := 0 })

/-- 41_crc.md R151, R152 with R142 (a): the chunked hash of a range is the division of its bytes one at a time in buffer
order, from `PHI32`; the second stream of `HASH64` divides the complements of the bytes. That a range which holds bytes
not written since reset is hashed too, where 10_state.md R50 has a model refuse it, is the model's choice: log 5. -/
def Obligations.HashesEqualBytewiseDivision : Prop :=
  ∀ s : State, s.capAvailable .crc = true → s.opa.toNat ≤ s.par.bufBytes →
    s.opb.toNat ≤ s.par.bufBytes - s.opa.toNat →
    let fold := fun (c : U32) (g : Byte → Byte) =>
      (List.range s.opb.toNat).foldl
        (fun c j => crcByte s.par.crcPolyR c (g (s.bufByte (s.opa.toNat + j)))) c
    exec .hash32 s = .next
      { s.afterCap .crc with res0 := (fold s.par.phi32 id).setWidth 64, status := 0 } ∧
    exec .hash64 s = .next
      { s.afterCap .crc with
        res0 := fold (s.par.phi64.extractLsb' 32 32) id ++ fold (s.par.phi64.extractLsb' 0 32) (fun b => ~~~b),
        status := 0 }

/-- 41_crc.md R153: the hashes are functions of the bytes of the range and of the parameters only. -/
def Obligations.HashReadsOnlyItsRange : Prop :=
  ∀ s t s' t' : State, ∀ i : Instr, i = .hash32 ∨ i = .hash64 →
    s.par = t.par → s.opa = t.opa → s.opb = t.opb →
    (∀ j, j < s.opb.toNat → s.bufByte (s.opa.toNat + j) = t.bufByte (s.opa.toNat + j)) →
    exec i s = .next s' → exec i t = .next t' → codeField s'.status = 0 → codeField t'.status = 0 →
      s'.res0 = t'.res0

/-! ### Generators -/

/-- 42_prng.md R172: the file `GINIT` makes from its operand, low half of an expander word first, with the all-zero
guard on the first word; `SXACC` and the results are left alone. -/
def Obligations.GinitFillsTheFile : Prop :=
  decodeWord 0x020 = some (.ginit .g32) ∧ decodeWord 0x120 = some (.ginit .g64) ∧
  decodeWord 0x220 = some (.ginit .gf) ∧ decodeWord 0x320 = some (.ginit .gd) ∧
  (∀ s : State, s.par = Params.candidate → s.opa = 0 →
    exec (.ginit .g32) s = .next
      { s with
        g32 := ⟨0x7B1DCDAF, 0xE220A839, 0xA1B965F4, 0x6E789E6A⟩, ginited := s.ginited ||| 1, status := 0 } ∧
    exec (.ginit .gd) s = .next
      { s with gd := ⟨0xE220A8397B1DCDAF, 0x6E789E6AA1B965F4⟩, ginited := s.ginited ||| 8, status := 0 }) ∧
  ∀ s : State,
    let e0 := mix64 s.par (s.opa + s.par.sexpInc)
    let e1 := mix64 s.par (s.opa + s.par.sexpInc + s.par.sexpInc)
    let e2 := mix64 s.par (s.opa + s.par.sexpInc + s.par.sexpInc + s.par.sexpInc)
    let e3 := mix64 s.par (s.opa + s.par.sexpInc + s.par.sexpInc + s.par.sexpInc + s.par.sexpInc)
    let lo := fun (e : U64) => (e.extractLsb' 0 32 : U32)
    let hi := fun (e : U64) => (e.extractLsb' 32 32 : U32)
    let q : Quad 32 :=
      ⟨if lo e0 = 0 ∧ hi e0 = 0 ∧ lo e1 = 0 ∧ hi e1 = 0 then s.par.phi32 else lo e0, hi e0, lo e1, hi e1⟩
    exec (.ginit .g32) s = .next { s with g32 := q, ginited := s.ginited ||| 1, status := 0 } ∧
    exec (.ginit .gf) s = .next { s with gf := q, ginited := s.ginited ||| 4, status := 0 } ∧
    exec (.ginit .g64) s = .next
      { s with
        g64 := ⟨if e0 = 0 ∧ e1 = 0 ∧ e2 = 0 ∧ e3 = 0 then s.par.phi64 else e0, e1, e2, e3⟩
        ginited := s.ginited ||| 2, status := 0 } ∧
    exec (.ginit .gd) s = .next
      { s with
        gd := ⟨if e0 = 0 ∧ e1 = 0 then s.par.phi64 else e0, e1⟩
        ginited := s.ginited ||| 8, status := 0 }

/-- 42_prng.md R173: with nonzero φ words no initialised file is all zero; with a bijective mixer and a nonzero
increment two successive expander words are never both 0, so the guard never fires. -/
def Obligations.GinitNeverMakesAZeroFile : Prop :=
  (∀ (v : Variant) (s t : State), s.par.phi32 ≠ 0 → s.par.phi64 ≠ 0 → exec (.ginit v) s = .next t →
    t.fileZero v = false) ∧
  (∀ (p : Params) (seed : U64), Function.Bijective (mix64 p) → p.sexpInc ≠ 0 →
    ∀ n, ¬ (expanderWord p seed n = 0 ∧ expanderWord p seed (n + 1) = 0))

/-- 42_prng.md R170: an uninitialised generator is not stepped: the command ends `NOINIT` and changes nothing, whatever
its operands (60_exceptions.md R271). -/
def Obligations.UninitialisedGeneratorRaisesNoinit : Prop :=
  ∀ (s : State) (v : Variant) (i : Instr),
    i ∈ [Instr.gnext v, .gjump v, .gunif v, .gbound v, .grange v] → i.wellFormed = true →
    isInited s.ginited v = false → exec i s = .next { s with status := 4 }

/-- 42_prng.md R175 to R180: the output of each generator, taken before the update, and the updated file. -/
def Obligations.GnextOutputsThenUpdates : Prop :=
  ∀ s : State,
    let rot32 := fun (x : U32) (r : Nat) => (x <<< r) ||| (x >>> (32 - r))
    let rot64 := fun (x : U64) (r : Nat) => (x <<< r) ||| (x >>> (64 - r))
    let upd32 := fun (f : Quad 32) => (⟨f.w0 ^^^ (f.w3 ^^^ f.w1), f.w1 ^^^ (f.w2 ^^^ f.w0),
      (f.w2 ^^^ f.w0) ^^^ (f.w1 <<< s.par.g32Shift), rot32 (f.w3 ^^^ f.w1) s.par.g32Rot⟩ : Quad 32)
    (isInited s.ginited .g32 = true → exec (.gnext .g32) s = .next
      { s with
        g32 := upd32 s.g32
        res0 := (rot32 (s.g32.w1 * s.par.g32Mul1) s.par.g32Srot * s.par.g32Mul2).setWidth 64, status := 0 }) ∧
    (isInited s.ginited .g64 = true → exec (.gnext .g64) s = .next
      { s with
        g64 := ⟨s.g64.w0 ^^^ (s.g64.w3 ^^^ s.g64.w1), s.g64.w1 ^^^ (s.g64.w2 ^^^ s.g64.w0),
          (s.g64.w2 ^^^ s.g64.w0) ^^^ (s.g64.w1 <<< s.par.g64Shift),
          rot64 (s.g64.w3 ^^^ s.g64.w1) s.par.g64Rot⟩
        res0 := rot64 (s.g64.w1 * s.par.g64Mul1) s.par.g64Srot * s.par.g64Mul2, status := 0 }) ∧
    (isInited s.ginited .gf = true → exec (.gnext .gf) s = .next
      { s with gf := upd32 s.gf, res0 := (s.gf.w0 + s.gf.w3).setWidth 64, status := 0 }) ∧
    (isInited s.ginited .gd = true → exec (.gnext .gd) s = .next
      { s with
        gd := ⟨rot64 s.gd.w0 s.par.gdRotA ^^^ (s.gd.w1 ^^^ s.gd.w0) ^^^
            ((s.gd.w1 ^^^ s.gd.w0) <<< s.par.gdShift), rot64 (s.gd.w1 ^^^ s.gd.w0) s.par.gdRotB⟩
        res0 := s.gd.w0 + s.gd.w1, status := 0 })

/-- 42_prng.md R175, R178 (10_state.md R32): the linear updates lose nothing, for all amounts strictly between 0 and the
width. -/
def Obligations.LinearUpdatesAreBijections : Prop :=
  (∀ w a b : Nat, 0 < a → a < w → 0 < b → b < w → Function.Bijective (lin4 a b : Quad w → Quad w)) ∧
  ∀ p : Params, 0 < p.gdRotA → p.gdRotA < 64 → 0 < p.gdShift → p.gdShift < 64 → 0 < p.gdRotB → p.gdRotB < 64 →
    Function.Bijective fun f : Duo => (stepGd p f).2

/-- 42_prng.md R182, R183: the file after a jump is the exclusive or, over the set bits `i` of the polynomial in
ascending word and bit order, of the file advanced `i` times; the results and `GINITED` are left alone. -/
def Obligations.GjumpXorsTheAdvancedFiles : Prop :=
  ∀ s : State,
    let walk32 := fun (adv : Quad 32 → Quad 32) (f : Quad 32) =>
      let j : BitVec 128 := s.par.jumpG32.w3 ++ s.par.jumpG32.w2 ++ s.par.jumpG32.w1 ++ s.par.jumpG32.w0
      (List.range 128).foldl (fun acc i => if j.getLsbD i then xorQuad acc (adv^[i] f) else acc) ⟨0, 0, 0, 0⟩
    (isInited s.ginited .g32 = true → exec (.gjump .g32) s = .next
      { s with g32 := walk32 (fun f => (stepG32 s.par f).2) s.g32, status := 0 }) ∧
    (isInited s.ginited .gf = true → exec (.gjump .gf) s = .next
      { s with gf := walk32 (fun f => (stepGf s.par f).2) s.gf, status := 0 }) ∧
    (isInited s.ginited .g64 = true → exec (.gjump .g64) s = .next
      { s with
        g64 :=
          let j : BitVec 256 := s.par.jumpG64.w3 ++ s.par.jumpG64.w2 ++ s.par.jumpG64.w1 ++ s.par.jumpG64.w0
          (List.range 256).foldl
            (fun acc i => if j.getLsbD i then xorQuad acc ((fun f => (stepG64 s.par f).2)^[i] s.g64) else acc)
            ⟨0, 0, 0, 0⟩
        status := 0 }) ∧
    (isInited s.ginited .gd = true → exec (.gjump .gd) s = .next
      { s with
        gd :=
          let j : BitVec 128 := s.par.jumpGd.w1 ++ s.par.jumpGd.w0
          (List.range 128).foldl
            (fun acc i => if j.getLsbD i then xorDuo acc ((fun f => (stepGd s.par f).2)^[i] s.gd) else acc)
            ⟨0, 0⟩
        status := 0 })

/-- From 42_prng.md R175, R178, R182 (95_test_vectors.md section 2.8): a jump is linear over exclusive or. -/
def Obligations.JumpsAreLinear : Prop :=
  ∀ p : Params,
    (∀ f g, jumpQuad32 p (xorQuad f g) = xorQuad (jumpQuad32 p f) (jumpQuad32 p g)) ∧
    (∀ f g, jumpQuad64 p (xorQuad f g) = xorQuad (jumpQuad64 p f) (jumpQuad64 p g)) ∧
    (∀ f g, jumpDuo p (xorDuo f g) = xorDuo (jumpDuo p f) (jumpDuo p g))

/-- 42_prng.md R185: the uniform conversion discards 8 or 11 low bits of one raw output and delivers the integer and
its pattern, the file advanced as by one `GNEXT`. -/
def Obligations.GunifDeliversIntegerAndPattern : Prop :=
  decodeWord 0x223 = some (.gunif .gf) ∧ decodeWord 0x323 = some (.gunif .gd) ∧
  decodeWord 0x023 = none ∧ decodeWord 0x123 = none ∧
  ∀ s : State,
    (isInited s.ginited .gf = false → exec (.gunif .gf) s = .next { s with status := 4 }) ∧
    (isInited s.ginited .gd = false → exec (.gunif .gd) s = .next { s with status := 4 }) ∧
    (isInited s.ginited .gf = true →
      let k := (s.gf.w0 + s.gf.w3) >>> 8
      exec (.gunif .gf) s = .next
        { s with
          gf := (stepGf s.par s.gf).2, res0 := k.setWidth 64, res1 := (f32Of k).setWidth 64, status := 0 } ∧
      k.toNat < 2 ^ 24) ∧
    (isInited s.ginited .gd = true →
      let k := (s.gd.w0 + s.gd.w1) >>> 11
      exec (.gunif .gd) s = .next
        { s with gd := (stepGd s.par s.gd).2, res0 := k, res1 := f64Of k, status := 0 } ∧
      k.toNat < 2 ^ 53)

/-- 42_prng.md R187: the patterns are exact: a normal binary32 (binary64) number with sign 0 whose value is `k · 2^-24`
(`k · 2^-53`), and all zeros for 0. -/
def Obligations.UniformPatternsAreExact : Prop :=
  f32Of 0 = 0 ∧ f64Of 0 = 0 ∧
  f32Of 1 = 0x33800000 ∧ f32Of 0x800000 = 0x3F000000 ∧ f32Of 0xFFFFFF = 0x3F7FFFFF ∧
  f64Of 1 = 0x3CA0000000000000 ∧ f64Of 0x10000000000000 = 0x3FE0000000000000 ∧
  f64Of 0x1FFFFFFFFFFFFF = 0x3FEFFFFFFFFFFFFF ∧
  (∀ k : U32, k ≠ 0 → k.toNat < 2 ^ 24 →
    let e := ((f32Of k).extractLsb' 23 8).toNat
    let m := ((f32Of k).extractLsb' 0 23).toNat
    (f32Of k).getLsbD 31 = false ∧ 0 < e ∧ e < 255 ∧
      (1 + (m : ℚ) / 2 ^ 23) * (2 : ℚ) ^ ((e : ℤ) - 127) = (k.toNat : ℚ) / 2 ^ 24) ∧
  (∀ k : U64, k ≠ 0 → k.toNat < 2 ^ 53 →
    let e := ((f64Of k).extractLsb' 52 11).toNat
    let m := ((f64Of k).extractLsb' 0 52).toNat
    (f64Of k).getLsbD 63 = false ∧ 0 < e ∧ e < 2047 ∧
      (1 + (m : ℚ) / 2 ^ 52) * (2 : ℚ) ^ ((e : ℤ) - 1023) = (k.toNat : ℚ) / 2 ^ 53)

/-- 42_prng.md R186: `GADOPT` fails `PRECOND` on an all-zero file and changes nothing; on any other it sets
`GINITED[v]`, whether it was set or not, and changes no state word. -/
def Obligations.GadoptChecksTheNonzeroInvariant : Prop :=
  decodeWord 0x026 = some (.gadopt .g32) ∧ decodeWord 0x126 = some (.gadopt .g64) ∧
  decodeWord 0x226 = some (.gadopt .gf) ∧ decodeWord 0x326 = some (.gadopt .gd) ∧
  ∀ s : State,
    (s.g32 = ⟨0, 0, 0, 0⟩ → exec (.gadopt .g32) s = .next { s with status := 3 }) ∧
    (s.g32 ≠ ⟨0, 0, 0, 0⟩ → exec (.gadopt .g32) s = .next { s with ginited := s.ginited ||| 1, status := 0 }) ∧
    (s.g64 = ⟨0, 0, 0, 0⟩ → exec (.gadopt .g64) s = .next { s with status := 3 }) ∧
    (s.g64 ≠ ⟨0, 0, 0, 0⟩ → exec (.gadopt .g64) s = .next { s with ginited := s.ginited ||| 2, status := 0 }) ∧
    (s.gf = ⟨0, 0, 0, 0⟩ → exec (.gadopt .gf) s = .next { s with status := 3 }) ∧
    (s.gf ≠ ⟨0, 0, 0, 0⟩ → exec (.gadopt .gf) s = .next { s with ginited := s.ginited ||| 4, status := 0 }) ∧
    (s.gd = ⟨0, 0⟩ → exec (.gadopt .gd) s = .next { s with status := 3 }) ∧
    (s.gd ≠ ⟨0, 0⟩ → exec (.gadopt .gd) s = .next { s with ginited := s.ginited ||| 8, status := 0 })

/-! ### The bounded sampler -/

/-- 43_sampler.md R210, R211: `GBOUND` delivers the high half of the first draw that is not rejected, however many
draws that takes, and advances the file once per draw. -/
def Obligations.GboundDeliversTheFirstAcceptedDraw : Prop :=
  ∀ (s : State) (n : Nat),
    (isInited s.ginited .g32 = true →
      let limit : U32 := s.opa.setWidth 32
      limit ≠ 0 → (∀ j, j < n → Rejected limit (s.drawG32 j)) → ¬ Rejected limit (s.drawG32 n) →
        exec (.gbound .g32) s = .next
          { s with
            g32 := s.fileG32After (n + 1), res0 := (highHalf limit (s.drawG32 n)).setWidth 64, status := 0 }) ∧
    (isInited s.ginited .g64 = true →
      s.opa ≠ 0 → (∀ j, j < n → Rejected s.opa (s.drawG64 j)) → ¬ Rejected s.opa (s.drawG64 n) →
        exec (.gbound .g64) s = .next
          { s with g64 := s.fileG64After (n + 1), res0 := highHalf s.opa (s.drawG64 n), status := 0 })

/-- 43_sampler.md R210, R212: `GRANGE` delivers `min` plus the high half of the first draw that is not rejected for
`max - min`. -/
def Obligations.GrangeAddsTheFirstAcceptedDraw : Prop :=
  ∀ (s : State) (n : Nat),
    (isInited s.ginited .g32 = true →
      let min : U32 := s.opa.setWidth 32
      let max : U32 := s.opb.setWidth 32
      min.toNat < max.toNat → (∀ j, j < n → Rejected (max - min) (s.drawG32 j)) →
      ¬ Rejected (max - min) (s.drawG32 n) →
        exec (.grange .g32) s = .next
          { s with
            g32 := s.fileG32After (n + 1)
            res0 := (min + highHalf (max - min) (s.drawG32 n)).setWidth 64, status := 0 }) ∧
    (isInited s.ginited .g64 = true →
      s.opa.toNat < s.opb.toNat → (∀ j, j < n → Rejected (s.opb - s.opa) (s.drawG64 j)) →
      ¬ Rejected (s.opb - s.opa) (s.drawG64 n) →
        exec (.grange .g64) s = .next
          { s with
            g64 := s.fileG64After (n + 1)
            res0 := s.opa + highHalf (s.opb - s.opa) (s.drawG64 n), status := 0 })

/-- 43_sampler.md R211, R212: a limit of 0, or `max ≤ min`, ends `PRECOND` before any draw. -/
def Obligations.SamplerPreconditionsFailFast : Prop :=
  ∀ s : State,
    (isInited s.ginited .g32 = true →
      (s.opa.setWidth 32 = (0 : U32) → exec (.gbound .g32) s = .next { s with status := 3 }) ∧
      ((s.opb.setWidth 32 : U32).toNat ≤ (s.opa.setWidth 32 : U32).toNat →
        exec (.grange .g32) s = .next { s with status := 3 })) ∧
    (isInited s.ginited .g64 = true →
      (s.opa = 0 → exec (.gbound .g64) s = .next { s with status := 3 }) ∧
      (s.opb.toNat ≤ s.opa.toNat → exec (.grange .g64) s = .next { s with status := 3 }))

/-- 70_reset_and_hazards.md R312: the model adds no bound to the rejection loop: it stops exactly where no draw
whatever, of the infinitely many, is accepted. The fault is the model's form of a `CMD` write that never returns:
log 7. -/
def Obligations.SamplerStopsOnlyWhenNoDrawIsAccepted : Prop :=
  ∀ s : State,
    (exec (.gbound .g32) s = .fault .samplerDiverges ↔
      isInited s.ginited .g32 = true ∧ (s.opa.setWidth 32 : U32) ≠ 0 ∧
        ∀ n, Rejected (s.opa.setWidth 32 : U32) (s.drawG32 n)) ∧
    (exec (.gbound .g64) s = .fault .samplerDiverges ↔
      isInited s.ginited .g64 = true ∧ s.opa ≠ 0 ∧ ∀ n, Rejected s.opa (s.drawG64 n)) ∧
    (exec (.grange .g32) s = .fault .samplerDiverges ↔
      isInited s.ginited .g32 = true ∧ (s.opa.setWidth 32 : U32).toNat < (s.opb.setWidth 32 : U32).toNat ∧
        ∀ n, Rejected (s.opb.setWidth 32 - s.opa.setWidth 32 : U32) (s.drawG32 n)) ∧
    (exec (.grange .g64) s = .fault .samplerDiverges ↔
      isInited s.ginited .g64 = true ∧ s.opa.toNat < s.opb.toNat ∧
        ∀ n, Rejected (s.opb - s.opa) (s.drawG64 n))

/-- 43_sampler.md R213, range containment: a delivered sample is in `[0, limit)`, or in `[min, max)`. -/
def Obligations.SamplesStayInRange : Prop :=
  ∀ s t : State, codeField t.status = 0 →
    (exec (.gbound .g32) s = .next t → t.res0.toNat < (s.opa.setWidth 32 : U32).toNat) ∧
    (exec (.gbound .g64) s = .next t → t.res0.toNat < s.opa.toNat) ∧
    (exec (.grange .g32) s = .next t →
      (s.opa.setWidth 32 : U32).toNat ≤ t.res0.toNat ∧ t.res0.toNat < (s.opb.setWidth 32 : U32).toNat) ∧
    (exec (.grange .g64) s = .next t → s.opa.toNat ≤ t.res0.toNat ∧ t.res0.toNat < s.opb.toNat)

/-- 43_sampler.md R213, no modulo bias: over all `2^W` values of the draw, each result below the limit is accepted for
exactly `floor(2^W / limit)` of them. -/
def Obligations.EveryResultIsAcceptedEquallyOften : Prop :=
  ∀ (w : Nat) (limit r : BitVec w), r.toNat < limit.toNat →
    Set.ncard {x : BitVec w |
      ¬ loHalf w (wideMul x limit) < threshold limit ∧ hiHalf w (wideMul x limit) = r} = 2 ^ w / limit.toNat

/-! ### Capability and entropy -/

/-- 44_capability_entropy.md R221. -/
def Obligations.ProbeReadsTheFeatureBits : Prop :=
  ∀ (p : Params) (i : Ids),
    (p.archApplicable = false → ∀ f, probe p i f = false) ∧
    (p.archApplicable = true →
      (probe p i .crc = true ↔ i.leaf1.getLsbD 20 = true) ∧
      (probe p i .fast = true ↔ i.leaf1.getLsbD 30 = true) ∧
      (probe p i .ent = true ↔ 7 ≤ i.maxLeaf.toNat ∧ i.leaf7.getLsbD 18 = true))

/-- 10_state.md R27: `cap(f)` probes an `unknown` cell and caches the answer, reads any other cell only, touches no
other cell and no other state, and answers the same from then on. -/
def Obligations.CapabilityIsProbedOnceThenCached : Prop :=
  ∀ (s : State) (f : Feature),
    s.afterCap f = { s with caps := (s.afterCap f).caps } ∧
    (capCell s.caps f = 0 →
      s.capAvailable f = probe s.par s.ids f ∧
      capCell (s.afterCap f).caps f = (if probe s.par s.ids f then 1 else 2)) ∧
    (capCell s.caps f ≠ 0 → s.afterCap f = s ∧ (s.capAvailable f = true ↔ capCell s.caps f = 1)) ∧
    (∀ g, g ≠ f → capCell (s.afterCap f).caps g = capCell s.caps g) ∧
    (s.afterCap f).caps.extractLsb' 6 58 = s.caps.extractLsb' 6 58 ∧
    (s.afterCap f).afterCap f = s.afterCap f ∧ (s.afterCap f).capAvailable f = s.capAvailable f

/-- 44_capability_entropy.md R222. -/
def Obligations.CapqDeliversTheAnswer : Prop :=
  decodeWord 0x030 = some (.capq .crc) ∧ decodeWord 0x130 = some (.capq .fast) ∧
  decodeWord 0x230 = some (.capq .ent) ∧ decodeWord 0x330 = none ∧
  (∀ (s : State) (f : Feature), exec (.capq f) s = .next
    { s.afterCap f with res0 := (if s.capAvailable f = true then 1 else 0), status := 0 }) ∧
  (∀ (s : State) (f : Feature), (s.afterCap f).capAvailable f = s.capAvailable f) ∧
  ∀ s : State, s.par.archApplicable = true →
    (s.ids = ⟨0x0000000D, 0x40100000, 0x00040000⟩ →
      (s.caps = 0 → exec (.capq .crc) s = .next { s with caps := 0x01, res0 := 1, status := 0 }) ∧
      (s.caps = 0x01 → exec (.capq .fast) s = .next { s with caps := 0x05, res0 := 1, status := 0 }) ∧
      (s.caps = 0x05 → exec (.capq .ent) s = .next { s with caps := 0x15, res0 := 1, status := 0 })) ∧
    (s.ids = ⟨6, 0x40100000, 0x00040000⟩ → s.caps = 0x05 →
      exec (.capq .ent) s = .next { s with caps := 0x25, res0 := 0, status := 0 })

/-- 10_state.md R26, R27, 20_memory.md R74: a cell that has left `unknown` never changes again until reset, whatever
the block does. -/
def Obligations.CachedCapabilitiesAreFrozen : Prop :=
  ∀ (s t : State) (f : Feature), step s = .next t →
    (s.held = false → ∀ e rest, s.port = e :: rest → e.resetIds = none) →
    (s.held = true → ∀ e ∈ s.port, e.resetIds = none) →
    capCell s.caps f ≠ 0 → capCell t.caps f = capCell s.caps f

/-- 44_capability_entropy.md R224: the loop delivers the data of the first successful attempt among the first `n`, and
makes no attempt after it; where none succeeds it makes exactly `n`. The bounds of P0 are 255 and 4095. -/
def Obligations.AcquireMakesBoundedAttempts : Prop :=
  (∀ s : State, s.acquireFast = acquire Config.fastDraw s.par.fastAttempts s.fast ∧
    s.acquireEnt = acquire Config.entDraw s.par.entAttempts s.ent) ∧
  Params.candidate.fastAttempts = 255 ∧ Params.candidate.entAttempts = 4095 ∧
  ∀ (free : Nat → Attempt) (n : Nat) (q : Feed Attempt),
    (∀ k, k < n → (∀ j, j < k → (q.answer free j).ok = false) → (q.answer free k).ok = true →
      acquire free n q = (some (q.answer free k).data, q.after (k + 1))) ∧
    ((∀ j, j < n → (q.answer free j).ok = false) → acquire free n q = (none, q.after n))

/-- 44_capability_entropy.md R225: the three outcomes of `TRYFAST`. -/
def Obligations.TryfastOutcomes : Prop :=
  decodeWord 0x31 = some .tryfast ∧
  ∀ s : State,
    (s.capAvailable .fast = false → exec .tryfast s = .next { s.afterCap .fast with status := 1 }) ∧
    (s.capAvailable .fast = true →
      (∀ k, k < s.par.fastAttempts → (∀ j, j < k → (s.fast.answer Config.fastDraw j).ok = false) →
        (s.fast.answer Config.fastDraw k).ok = true →
        exec .tryfast s = .next
          { s.afterCap .fast with
            fast := s.fast.after (k + 1), res0 := (s.fast.answer Config.fastDraw k).data, status := 0x20 }) ∧
      ((∀ j, j < s.par.fastAttempts → (s.fast.answer Config.fastDraw j).ok = false) →
        exec .tryfast s = .next
          { s.afterCap .fast with fast := s.fast.after s.par.fastAttempts, status := 2 }))

/-- 44_capability_entropy.md R226: the three outcomes of `TRYENT`. -/
def Obligations.TryentOutcomes : Prop :=
  decodeWord 0x32 = some .tryent ∧
  ∀ s : State,
    (s.capAvailable .ent = false → exec .tryent s = .next { s.afterCap .ent with status := 1 }) ∧
    (s.capAvailable .ent = true →
      (∀ k, k < s.par.entAttempts → (∀ j, j < k → (s.ent.answer Config.entDraw j).ok = false) →
        (s.ent.answer Config.entDraw k).ok = true →
        exec .tryent s = .next
          { s.afterCap .ent with
            ent := s.ent.after (k + 1), res0 := (s.ent.answer Config.entDraw k).data, status := 0x10 }) ∧
      ((∀ j, j < s.par.entAttempts → (s.ent.answer Config.entDraw j).ok = false) →
        exec .tryent s = .next
          { s.afterCap .ent with ent := s.ent.after s.par.entAttempts, status := 2 }))

/-- 44_capability_entropy.md R231: the fallback chain, step by step; a later step runs only when every earlier one did
not deliver, `cap(FAST)` is not evaluated when the entropy step delivers, and on every input the command ends `OK` with
the source that delivered. -/
def Obligations.AutoseedFollowsTheChain : Prop :=
  decodeWord 0x33 = some .autoseed ∧
  (∀ s : State, ∃ t, exec .autoseed s = .next t ∧ (t.status = 0x10 ∨ t.status = 0x20 ∨ t.status = 0x30)) ∧
  ∀ s : State,
    (∀ k, s.capAvailable .ent = true → k < s.par.entAttempts →
      (∀ j, j < k → (s.ent.answer Config.entDraw j).ok = false) → (s.ent.answer Config.entDraw k).ok = true →
      exec .autoseed s = .next
        { s.afterCap .ent with
          ent := s.ent.after (k + 1), res0 := (s.ent.answer Config.entDraw k).data, status := 0x10 }) ∧
    ((s.capAvailable .ent = true → ∀ j, j < s.par.entAttempts → (s.ent.answer Config.entDraw j).ok = false) →
      let u : State := if s.capAvailable .ent = true
        then { s.afterCap .ent with ent := s.ent.after s.par.entAttempts } else s.afterCap .ent
      (∀ k, u.capAvailable .fast = true → k < u.par.fastAttempts →
        (∀ j, j < k → (u.fast.answer Config.fastDraw j).ok = false) →
        (u.fast.answer Config.fastDraw k).ok = true →
        exec .autoseed s = .next
          { u.afterCap .fast with
            fast := u.fast.after (k + 1), res0 := (u.fast.answer Config.fastDraw k).data, status := 0x20 }) ∧
      ((u.capAvailable .fast = true →
          ∀ j, j < u.par.fastAttempts → (u.fast.answer Config.fastDraw j).ok = false) →
        let v : State := if u.capAvailable .fast = true
          then { u.afterCap .fast with fast := u.fast.after u.par.fastAttempts } else u.afterCap .fast
        exec .autoseed s = .next
          { v with
            cyc := v.cyc.after 1, res0 := mix64 v.par (v.cyc.answer Config.cycDraw 0), status := 0x30 }))

/-! ### The whole machine -/

/-- 10_state.md R25, R26, R27, R28, R34: every step keeps the invariant of the registers and the buffer. Two of its
clauses rest on choices of the model: that a cached cell agrees with the probe of the present identification words, on
their not changing between two resets (10_state.md R40, log 13), and the canonical form of the list of written bytes, on
log 5. -/
def Obligations.EveryStepKeepsTheInvariant : Prop :=
  ∀ s t : State, s.Inv → step s = .next t → t.Inv

/-- The reset state satisfies both invariants, whatever the parameters and the identification words. -/
def Obligations.ResetSatisfiesTheInvariants : Prop :=
  ∀ (p : Params) (i : Ids), (State.resetWith p i).Inv ∧ (State.resetWith p i).GeneratorsNonzero

/-- 10_state.md R32: with parameters in the spec's ranges, every step keeps every initialised generator nonzero, but
for a jump whose polynomial takes this file to zero (42_prng.md R183: none does when the polynomial is correct). -/
def Obligations.EveryStepKeepsGeneratorsNonzero : Prop :=
  ∀ s t : State, s.par.wf = true → s.GeneratorsNonzero →
    (∀ v rest, s.port = .write 0x000 8 (encode (.gjump v)) :: rest → isInited s.ginited v = true →
      (s.jumpFile v).fileZero v = false) →
    step s = .next t → t.GeneratorsNonzero

/-- 10_state.md R21, R28, R29, R31, R34, 30_encoding.md R100: what no command changes, over all commands: parameters,
inputs, `CMD`, `OPA`, `OPB`, every byte of `BUF`; `RES1` but by `GUNIF`; `SXACC` but by `SXNEXT`; `GINITED` but by
`GINIT` and `GADOPT`; a generator file but by a command on its variant; `CAPS` and the sources but by the gated
commands. -/
def Obligations.CommandsChangeOnlyTheirOwnState : Prop :=
  ∀ (i : Instr) (s t : State), exec i s = .next t →
    t.par = s.par ∧ t.ids = s.ids ∧ t.cmd = s.cmd ∧ t.opa = s.opa ∧ t.opb = s.opb ∧ t.port = s.port ∧
    t.resp = s.resp ∧ t.held = s.held ∧ (∀ a, t.bufByte a = s.bufByte a) ∧
    ((∀ v, i ≠ .gunif v) → t.res1 = s.res1) ∧
    (i ≠ .sxnext → t.sxacc = s.sxacc) ∧
    ((∀ v, i ≠ .ginit v ∧ i ≠ .gadopt v) → t.ginited = s.ginited) ∧
    ((∀ v, i ≠ .ginit v ∧ i ≠ .gnext v ∧ i ≠ .gjump v ∧ i ≠ .gunif v ∧ i ≠ .gbound v ∧ i ≠ .grange v) →
      t.g32 = s.g32 ∧ t.g64 = s.g64 ∧ t.gf = s.gf ∧ t.gd = s.gd) ∧
    (∀ v, i = .ginit v ∨ i = .gnext v ∨ i = .gjump v ∨ i = .gunif v ∨ i = .gbound v ∨ i = .grange v →
      (v ≠ .g32 → t.g32 = s.g32) ∧ (v ≠ .g64 → t.g64 = s.g64) ∧ (v ≠ .gf → t.gf = s.gf) ∧
      (v ≠ .gd → t.gd = s.gd)) ∧
    (i ∉ [Instr.crc8, .crc16, .crc32, .crc64, .hash32, .hash64, .tryfast, .tryent, .autoseed,
        .capq .crc, .capq .fast, .capq .ent] → t.caps = s.caps) ∧
    (i ∉ [Instr.tryfast, .autoseed] → t.fast = s.fast) ∧
    (i ∉ [Instr.tryent, .autoseed] → t.ent = s.ent) ∧
    (i ≠ .autoseed → t.cyc = s.cyc)

/-- 60_exceptions.md R272: a command that fails changes `STATUS`, with `STATUS.SRC` 0, and at most one capability cell and
the attempts made on a source port, which are not undone. -/
def Obligations.FailuresChangeNothingElse : Prop :=
  ∀ (i : Instr) (s t : State), exec i s = .next t → codeField t.status ≠ 0 →
    t = { s with status := t.status, caps := t.caps, fast := t.fast, ent := t.ent } ∧ srcField t.status = 0 ∧
      (t.caps = s.caps ∨ ∃ f, t.caps = (s.afterCap f).caps) ∧
      (∃ n, t.fast = s.fast.after n) ∧ ∃ n, t.ent = s.ent.after n

/-- 10_state.md R30, 60_exceptions.md R274: no command's outcome depends on the status an earlier command left. -/
def Obligations.NoCommandReadsStatus : Prop :=
  ∀ (i : Instr) (s : State) (x : U64), exec i { s with status := x } = exec i s

/-- 30_encoding.md R100 (c): no command but `HASH32` and `HASH64` reads the buffer. -/
def Obligations.OnlyTheHashesReadTheBuffer : Prop :=
  ∀ (i : Instr) (s t : State) (m : Memory) (g : Nat), i ≠ .hash32 → i ≠ .hash64 → exec i s = .next t →
    exec i { s with buf := m, bufGen := g } = .next { t with buf := m, bufGen := g }

/-- 60_exceptions.md R277, 70_reset_and_hazards.md R312: every step goes on, none faults and none is refused; and a
`CMD` write becomes held only by a sampler command whose loop never ends (log 7). -/
def Obligations.OnlyTheSamplerCanHoldTheBlock : Prop :=
  ∀ s : State, StepSafe s ∧
    ∀ t, step s = .next t → s.held = false → t.held = true →
      ∃ v i rest, (i = .gbound v ∨ i = .grange v) ∧ s.port = .write 0x000 8 (encode i) :: rest ∧
        exec i { s with port := rest, cmd := encode i, resp := .accepted } = .fault .samplerDiverges
end

