-- ==== Sys2Proof/Laws/State.lean ====
section
/-!
SUPPORT. One lemma per field for each update of the state, so that no proof unfolds a record update.
-/

namespace Sys2Proof.Machine

open Sys2Proof

section setStatus

variable (s : State) (c : Code) (src : Source)

@[simp] theorem State.setStatus_par : (s.setStatus c src).par = s.par := rfl
@[simp] theorem State.setStatus_ids : (s.setStatus c src).ids = s.ids := rfl
@[simp] theorem State.setStatus_cmd : (s.setStatus c src).cmd = s.cmd := rfl
@[simp] theorem State.setStatus_status : (s.setStatus c src).status = statusWord c src := rfl
@[simp] theorem State.setStatus_opa : (s.setStatus c src).opa = s.opa := rfl
@[simp] theorem State.setStatus_opb : (s.setStatus c src).opb = s.opb := rfl
@[simp] theorem State.setStatus_res0 : (s.setStatus c src).res0 = s.res0 := rfl
@[simp] theorem State.setStatus_res1 : (s.setStatus c src).res1 = s.res1 := rfl
@[simp] theorem State.setStatus_caps : (s.setStatus c src).caps = s.caps := rfl
@[simp] theorem State.setStatus_ginited : (s.setStatus c src).ginited = s.ginited := rfl
@[simp] theorem State.setStatus_sxacc : (s.setStatus c src).sxacc = s.sxacc := rfl
@[simp] theorem State.setStatus_g32 : (s.setStatus c src).g32 = s.g32 := rfl
@[simp] theorem State.setStatus_g64 : (s.setStatus c src).g64 = s.g64 := rfl
@[simp] theorem State.setStatus_gf : (s.setStatus c src).gf = s.gf := rfl
@[simp] theorem State.setStatus_gd : (s.setStatus c src).gd = s.gd := rfl
@[simp] theorem State.setStatus_buf : (s.setStatus c src).buf = s.buf := rfl
@[simp] theorem State.setStatus_bufGen : (s.setStatus c src).bufGen = s.bufGen := rfl
@[simp] theorem State.setStatus_fast : (s.setStatus c src).fast = s.fast := rfl
@[simp] theorem State.setStatus_ent : (s.setStatus c src).ent = s.ent := rfl
@[simp] theorem State.setStatus_cyc : (s.setStatus c src).cyc = s.cyc := rfl
@[simp] theorem State.setStatus_port : (s.setStatus c src).port = s.port := rfl
@[simp] theorem State.setStatus_resp : (s.setStatus c src).resp = s.resp := rfl
@[simp] theorem State.setStatus_held : (s.setStatus c src).held = s.held := rfl

end setStatus

section succeed

variable (s : State) (src : Source)

@[simp] theorem State.succeed_par : (s.succeed src).par = s.par := rfl
@[simp] theorem State.succeed_ids : (s.succeed src).ids = s.ids := rfl
@[simp] theorem State.succeed_cmd : (s.succeed src).cmd = s.cmd := rfl
@[simp] theorem State.succeed_status : (s.succeed src).status = statusWord .ok src := rfl
@[simp] theorem State.succeed_opa : (s.succeed src).opa = s.opa := rfl
@[simp] theorem State.succeed_opb : (s.succeed src).opb = s.opb := rfl
@[simp] theorem State.succeed_res0 : (s.succeed src).res0 = s.res0 := rfl
@[simp] theorem State.succeed_res1 : (s.succeed src).res1 = s.res1 := rfl
@[simp] theorem State.succeed_caps : (s.succeed src).caps = s.caps := rfl
@[simp] theorem State.succeed_ginited : (s.succeed src).ginited = s.ginited := rfl
@[simp] theorem State.succeed_sxacc : (s.succeed src).sxacc = s.sxacc := rfl
@[simp] theorem State.succeed_g32 : (s.succeed src).g32 = s.g32 := rfl
@[simp] theorem State.succeed_g64 : (s.succeed src).g64 = s.g64 := rfl
@[simp] theorem State.succeed_gf : (s.succeed src).gf = s.gf := rfl
@[simp] theorem State.succeed_gd : (s.succeed src).gd = s.gd := rfl
@[simp] theorem State.succeed_buf : (s.succeed src).buf = s.buf := rfl
@[simp] theorem State.succeed_bufGen : (s.succeed src).bufGen = s.bufGen := rfl
@[simp] theorem State.succeed_fast : (s.succeed src).fast = s.fast := rfl
@[simp] theorem State.succeed_ent : (s.succeed src).ent = s.ent := rfl
@[simp] theorem State.succeed_cyc : (s.succeed src).cyc = s.cyc := rfl
@[simp] theorem State.succeed_port : (s.succeed src).port = s.port := rfl
@[simp] theorem State.succeed_resp : (s.succeed src).resp = s.resp := rfl
@[simp] theorem State.succeed_held : (s.succeed src).held = s.held := rfl

end succeed

section raise

variable (s : State) (c : Code)

@[simp] theorem State.raise_par : (s.raise c).par = s.par := rfl
@[simp] theorem State.raise_ids : (s.raise c).ids = s.ids := rfl
@[simp] theorem State.raise_cmd : (s.raise c).cmd = s.cmd := rfl
@[simp] theorem State.raise_status : (s.raise c).status = statusWord c .none := rfl
@[simp] theorem State.raise_opa : (s.raise c).opa = s.opa := rfl
@[simp] theorem State.raise_opb : (s.raise c).opb = s.opb := rfl
@[simp] theorem State.raise_res0 : (s.raise c).res0 = s.res0 := rfl
@[simp] theorem State.raise_res1 : (s.raise c).res1 = s.res1 := rfl
@[simp] theorem State.raise_caps : (s.raise c).caps = s.caps := rfl
@[simp] theorem State.raise_ginited : (s.raise c).ginited = s.ginited := rfl
@[simp] theorem State.raise_sxacc : (s.raise c).sxacc = s.sxacc := rfl
@[simp] theorem State.raise_g32 : (s.raise c).g32 = s.g32 := rfl
@[simp] theorem State.raise_g64 : (s.raise c).g64 = s.g64 := rfl
@[simp] theorem State.raise_gf : (s.raise c).gf = s.gf := rfl
@[simp] theorem State.raise_gd : (s.raise c).gd = s.gd := rfl
@[simp] theorem State.raise_buf : (s.raise c).buf = s.buf := rfl
@[simp] theorem State.raise_bufGen : (s.raise c).bufGen = s.bufGen := rfl
@[simp] theorem State.raise_fast : (s.raise c).fast = s.fast := rfl
@[simp] theorem State.raise_ent : (s.raise c).ent = s.ent := rfl
@[simp] theorem State.raise_cyc : (s.raise c).cyc = s.cyc := rfl
@[simp] theorem State.raise_port : (s.raise c).port = s.port := rfl
@[simp] theorem State.raise_resp : (s.raise c).resp = s.resp := rfl
@[simp] theorem State.raise_held : (s.raise c).held = s.held := rfl

end raise

section withRes0

variable {w : Nat} (s : State) (v : BitVec w)

@[simp] theorem State.withRes0_par : (s.withRes0 v).par = s.par := rfl
@[simp] theorem State.withRes0_ids : (s.withRes0 v).ids = s.ids := rfl
@[simp] theorem State.withRes0_cmd : (s.withRes0 v).cmd = s.cmd := rfl
@[simp] theorem State.withRes0_status : (s.withRes0 v).status = s.status := rfl
@[simp] theorem State.withRes0_opa : (s.withRes0 v).opa = s.opa := rfl
@[simp] theorem State.withRes0_opb : (s.withRes0 v).opb = s.opb := rfl
@[simp] theorem State.withRes0_res0 : (s.withRes0 v).res0 = v.setWidth 64 := rfl
@[simp] theorem State.withRes0_res1 : (s.withRes0 v).res1 = s.res1 := rfl
@[simp] theorem State.withRes0_caps : (s.withRes0 v).caps = s.caps := rfl
@[simp] theorem State.withRes0_ginited : (s.withRes0 v).ginited = s.ginited := rfl
@[simp] theorem State.withRes0_sxacc : (s.withRes0 v).sxacc = s.sxacc := rfl
@[simp] theorem State.withRes0_g32 : (s.withRes0 v).g32 = s.g32 := rfl
@[simp] theorem State.withRes0_g64 : (s.withRes0 v).g64 = s.g64 := rfl
@[simp] theorem State.withRes0_gf : (s.withRes0 v).gf = s.gf := rfl
@[simp] theorem State.withRes0_gd : (s.withRes0 v).gd = s.gd := rfl
@[simp] theorem State.withRes0_buf : (s.withRes0 v).buf = s.buf := rfl
@[simp] theorem State.withRes0_bufGen : (s.withRes0 v).bufGen = s.bufGen := rfl
@[simp] theorem State.withRes0_fast : (s.withRes0 v).fast = s.fast := rfl
@[simp] theorem State.withRes0_ent : (s.withRes0 v).ent = s.ent := rfl
@[simp] theorem State.withRes0_cyc : (s.withRes0 v).cyc = s.cyc := rfl
@[simp] theorem State.withRes0_port : (s.withRes0 v).port = s.port := rfl
@[simp] theorem State.withRes0_resp : (s.withRes0 v).resp = s.resp := rfl
@[simp] theorem State.withRes0_held : (s.withRes0 v).held = s.held := rfl

end withRes0

section withRes1

variable {w : Nat} (s : State) (v : BitVec w)

@[simp] theorem State.withRes1_par : (s.withRes1 v).par = s.par := rfl
@[simp] theorem State.withRes1_ids : (s.withRes1 v).ids = s.ids := rfl
@[simp] theorem State.withRes1_cmd : (s.withRes1 v).cmd = s.cmd := rfl
@[simp] theorem State.withRes1_status : (s.withRes1 v).status = s.status := rfl
@[simp] theorem State.withRes1_opa : (s.withRes1 v).opa = s.opa := rfl
@[simp] theorem State.withRes1_opb : (s.withRes1 v).opb = s.opb := rfl
@[simp] theorem State.withRes1_res0 : (s.withRes1 v).res0 = s.res0 := rfl
@[simp] theorem State.withRes1_res1 : (s.withRes1 v).res1 = v.setWidth 64 := rfl
@[simp] theorem State.withRes1_caps : (s.withRes1 v).caps = s.caps := rfl
@[simp] theorem State.withRes1_ginited : (s.withRes1 v).ginited = s.ginited := rfl
@[simp] theorem State.withRes1_sxacc : (s.withRes1 v).sxacc = s.sxacc := rfl
@[simp] theorem State.withRes1_g32 : (s.withRes1 v).g32 = s.g32 := rfl
@[simp] theorem State.withRes1_g64 : (s.withRes1 v).g64 = s.g64 := rfl
@[simp] theorem State.withRes1_gf : (s.withRes1 v).gf = s.gf := rfl
@[simp] theorem State.withRes1_gd : (s.withRes1 v).gd = s.gd := rfl
@[simp] theorem State.withRes1_buf : (s.withRes1 v).buf = s.buf := rfl
@[simp] theorem State.withRes1_bufGen : (s.withRes1 v).bufGen = s.bufGen := rfl
@[simp] theorem State.withRes1_fast : (s.withRes1 v).fast = s.fast := rfl
@[simp] theorem State.withRes1_ent : (s.withRes1 v).ent = s.ent := rfl
@[simp] theorem State.withRes1_cyc : (s.withRes1 v).cyc = s.cyc := rfl
@[simp] theorem State.withRes1_port : (s.withRes1 v).port = s.port := rfl
@[simp] theorem State.withRes1_resp : (s.withRes1 v).resp = s.resp := rfl
@[simp] theorem State.withRes1_held : (s.withRes1 v).held = s.held := rfl

end withRes1

section markInited

variable (v : Variant) (s : State)

@[simp] theorem State.markInited_par : (s.markInited v).par = s.par := rfl
@[simp] theorem State.markInited_ids : (s.markInited v).ids = s.ids := rfl
@[simp] theorem State.markInited_cmd : (s.markInited v).cmd = s.cmd := rfl
@[simp] theorem State.markInited_status : (s.markInited v).status = s.status := rfl
@[simp] theorem State.markInited_opa : (s.markInited v).opa = s.opa := rfl
@[simp] theorem State.markInited_opb : (s.markInited v).opb = s.opb := rfl
@[simp] theorem State.markInited_res0 : (s.markInited v).res0 = s.res0 := rfl
@[simp] theorem State.markInited_res1 : (s.markInited v).res1 = s.res1 := rfl
@[simp] theorem State.markInited_caps : (s.markInited v).caps = s.caps := rfl
@[simp] theorem State.markInited_ginited : (s.markInited v).ginited = setInited s.ginited v := rfl
@[simp] theorem State.markInited_sxacc : (s.markInited v).sxacc = s.sxacc := rfl
@[simp] theorem State.markInited_g32 : (s.markInited v).g32 = s.g32 := rfl
@[simp] theorem State.markInited_g64 : (s.markInited v).g64 = s.g64 := rfl
@[simp] theorem State.markInited_gf : (s.markInited v).gf = s.gf := rfl
@[simp] theorem State.markInited_gd : (s.markInited v).gd = s.gd := rfl
@[simp] theorem State.markInited_buf : (s.markInited v).buf = s.buf := rfl
@[simp] theorem State.markInited_bufGen : (s.markInited v).bufGen = s.bufGen := rfl
@[simp] theorem State.markInited_fast : (s.markInited v).fast = s.fast := rfl
@[simp] theorem State.markInited_ent : (s.markInited v).ent = s.ent := rfl
@[simp] theorem State.markInited_cyc : (s.markInited v).cyc = s.cyc := rfl
@[simp] theorem State.markInited_port : (s.markInited v).port = s.port := rfl
@[simp] theorem State.markInited_resp : (s.markInited v).resp = s.resp := rfl
@[simp] theorem State.markInited_held : (s.markInited v).held = s.held := rfl

end markInited

section hold

variable (s : State)

@[simp] theorem State.hold_par : s.hold.par = s.par := rfl
@[simp] theorem State.hold_ids : s.hold.ids = s.ids := rfl
@[simp] theorem State.hold_cmd : s.hold.cmd = s.cmd := rfl
@[simp] theorem State.hold_status : s.hold.status = s.status := rfl
@[simp] theorem State.hold_opa : s.hold.opa = s.opa := rfl
@[simp] theorem State.hold_opb : s.hold.opb = s.opb := rfl
@[simp] theorem State.hold_res0 : s.hold.res0 = s.res0 := rfl
@[simp] theorem State.hold_res1 : s.hold.res1 = s.res1 := rfl
@[simp] theorem State.hold_caps : s.hold.caps = s.caps := rfl
@[simp] theorem State.hold_ginited : s.hold.ginited = s.ginited := rfl
@[simp] theorem State.hold_sxacc : s.hold.sxacc = s.sxacc := rfl
@[simp] theorem State.hold_g32 : s.hold.g32 = s.g32 := rfl
@[simp] theorem State.hold_g64 : s.hold.g64 = s.g64 := rfl
@[simp] theorem State.hold_gf : s.hold.gf = s.gf := rfl
@[simp] theorem State.hold_gd : s.hold.gd = s.gd := rfl
@[simp] theorem State.hold_buf : s.hold.buf = s.buf := rfl
@[simp] theorem State.hold_bufGen : s.hold.bufGen = s.bufGen := rfl
@[simp] theorem State.hold_fast : s.hold.fast = s.fast := rfl
@[simp] theorem State.hold_ent : s.hold.ent = s.ent := rfl
@[simp] theorem State.hold_cyc : s.hold.cyc = s.cyc := rfl
@[simp] theorem State.hold_port : s.hold.port = s.port := rfl
@[simp] theorem State.hold_resp : s.hold.resp = .idle := rfl
@[simp] theorem State.hold_held : s.hold.held = true := rfl

end hold

section resetBlock

variable (ids : Ids) (s : State)

@[simp] theorem State.resetBlock_par : (s.resetBlock ids).par = s.par := rfl
@[simp] theorem State.resetBlock_ids : (s.resetBlock ids).ids = ids := rfl
@[simp] theorem State.resetBlock_cmd : (s.resetBlock ids).cmd = 0 := rfl
@[simp] theorem State.resetBlock_status : (s.resetBlock ids).status = 0 := rfl
@[simp] theorem State.resetBlock_opa : (s.resetBlock ids).opa = 0 := rfl
@[simp] theorem State.resetBlock_opb : (s.resetBlock ids).opb = 0 := rfl
@[simp] theorem State.resetBlock_res0 : (s.resetBlock ids).res0 = 0 := rfl
@[simp] theorem State.resetBlock_res1 : (s.resetBlock ids).res1 = 0 := rfl
@[simp] theorem State.resetBlock_caps : (s.resetBlock ids).caps = 0 := rfl
@[simp] theorem State.resetBlock_ginited : (s.resetBlock ids).ginited = 0 := rfl
@[simp] theorem State.resetBlock_sxacc : (s.resetBlock ids).sxacc = 0 := rfl
@[simp] theorem State.resetBlock_g32 : (s.resetBlock ids).g32 = ⟨0, 0, 0, 0⟩ := rfl
@[simp] theorem State.resetBlock_g64 : (s.resetBlock ids).g64 = ⟨0, 0, 0, 0⟩ := rfl
@[simp] theorem State.resetBlock_gf : (s.resetBlock ids).gf = ⟨0, 0, 0, 0⟩ := rfl
@[simp] theorem State.resetBlock_gd : (s.resetBlock ids).gd = ⟨0, 0⟩ := rfl
@[simp] theorem State.resetBlock_buf : (s.resetBlock ids).buf = [] := rfl
@[simp] theorem State.resetBlock_bufGen : (s.resetBlock ids).bufGen = s.bufGen + 1 := rfl
@[simp] theorem State.resetBlock_fast : (s.resetBlock ids).fast = s.fast := rfl
@[simp] theorem State.resetBlock_ent : (s.resetBlock ids).ent = s.ent := rfl
@[simp] theorem State.resetBlock_cyc : (s.resetBlock ids).cyc = s.cyc := rfl
@[simp] theorem State.resetBlock_port : (s.resetBlock ids).port = s.port := rfl
@[simp] theorem State.resetBlock_resp : (s.resetBlock ids).resp = .idle := rfl
@[simp] theorem State.resetBlock_held : (s.resetBlock ids).held = false := rfl

end resetBlock

section drawsUpTo

variable (n : Nat) (s t : State)

@[simp] theorem State.drawsUpTo_par : (s.drawsUpTo n t).par = s.par := rfl
@[simp] theorem State.drawsUpTo_ids : (s.drawsUpTo n t).ids = s.ids := rfl
@[simp] theorem State.drawsUpTo_cmd : (s.drawsUpTo n t).cmd = s.cmd := rfl
@[simp] theorem State.drawsUpTo_status : (s.drawsUpTo n t).status = s.status := rfl
@[simp] theorem State.drawsUpTo_opa : (s.drawsUpTo n t).opa = s.opa := rfl
@[simp] theorem State.drawsUpTo_opb : (s.drawsUpTo n t).opb = s.opb := rfl
@[simp] theorem State.drawsUpTo_res0 : (s.drawsUpTo n t).res0 = s.res0 := rfl
@[simp] theorem State.drawsUpTo_res1 : (s.drawsUpTo n t).res1 = s.res1 := rfl
@[simp] theorem State.drawsUpTo_caps : (s.drawsUpTo n t).caps = s.caps := rfl
@[simp] theorem State.drawsUpTo_ginited : (s.drawsUpTo n t).ginited = s.ginited := rfl
@[simp] theorem State.drawsUpTo_sxacc : (s.drawsUpTo n t).sxacc = s.sxacc := rfl
@[simp] theorem State.drawsUpTo_g32 : (s.drawsUpTo n t).g32 = s.g32 := rfl
@[simp] theorem State.drawsUpTo_g64 : (s.drawsUpTo n t).g64 = s.g64 := rfl
@[simp] theorem State.drawsUpTo_gf : (s.drawsUpTo n t).gf = s.gf := rfl
@[simp] theorem State.drawsUpTo_gd : (s.drawsUpTo n t).gd = s.gd := rfl
@[simp] theorem State.drawsUpTo_buf : (s.drawsUpTo n t).buf = s.buf := rfl
@[simp] theorem State.drawsUpTo_bufGen : (s.drawsUpTo n t).bufGen = s.bufGen := rfl
@[simp] theorem State.drawsUpTo_fast :
    (s.drawsUpTo n t).fast = s.fast.after (min (n - (t.ent.used - s.ent.used)) (t.fast.used - s.fast.used)) := rfl
@[simp] theorem State.drawsUpTo_ent : (s.drawsUpTo n t).ent = s.ent.after (min n (t.ent.used - s.ent.used)) := rfl
@[simp] theorem State.drawsUpTo_cyc :
    (s.drawsUpTo n t).cyc = s.cyc.after
    (min (n - (t.ent.used - s.ent.used) - (t.fast.used - s.fast.used)) (t.cyc.used - s.cyc.used)) := rfl
@[simp] theorem State.drawsUpTo_port : (s.drawsUpTo n t).port = s.port := rfl
@[simp] theorem State.drawsUpTo_resp : (s.drawsUpTo n t).resp = s.resp := rfl
@[simp] theorem State.drawsUpTo_held : (s.drawsUpTo n t).held = s.held := rfl

end drawsUpTo

section markStale

variable (v : Variant) (s : State)

@[simp] theorem State.markStale_par : (s.markStale v).par = s.par := rfl
@[simp] theorem State.markStale_ids : (s.markStale v).ids = s.ids := rfl
@[simp] theorem State.markStale_cmd : (s.markStale v).cmd = s.cmd := rfl
@[simp] theorem State.markStale_status : (s.markStale v).status = s.status := rfl
@[simp] theorem State.markStale_opa : (s.markStale v).opa = s.opa := rfl
@[simp] theorem State.markStale_opb : (s.markStale v).opb = s.opb := rfl
@[simp] theorem State.markStale_res0 : (s.markStale v).res0 = s.res0 := rfl
@[simp] theorem State.markStale_res1 : (s.markStale v).res1 = s.res1 := rfl
@[simp] theorem State.markStale_caps : (s.markStale v).caps = s.caps := rfl
@[simp] theorem State.markStale_ginited : (s.markStale v).ginited = clearInited s.ginited v := rfl
@[simp] theorem State.markStale_sxacc : (s.markStale v).sxacc = s.sxacc := rfl
@[simp] theorem State.markStale_g32 : (s.markStale v).g32 = s.g32 := rfl
@[simp] theorem State.markStale_g64 : (s.markStale v).g64 = s.g64 := rfl
@[simp] theorem State.markStale_gf : (s.markStale v).gf = s.gf := rfl
@[simp] theorem State.markStale_gd : (s.markStale v).gd = s.gd := rfl
@[simp] theorem State.markStale_buf : (s.markStale v).buf = s.buf := rfl
@[simp] theorem State.markStale_bufGen : (s.markStale v).bufGen = s.bufGen := rfl
@[simp] theorem State.markStale_fast : (s.markStale v).fast = s.fast := rfl
@[simp] theorem State.markStale_ent : (s.markStale v).ent = s.ent := rfl
@[simp] theorem State.markStale_cyc : (s.markStale v).cyc = s.cyc := rfl
@[simp] theorem State.markStale_port : (s.markStale v).port = s.port := rfl
@[simp] theorem State.markStale_resp : (s.markStale v).resp = s.resp := rfl
@[simp] theorem State.markStale_held : (s.markStale v).held = s.held := rfl

end markStale

section afterCap

variable (f : Feature) (s : State)

@[simp] theorem State.afterCap_par : (s.afterCap f).par = s.par := by
  unfold State.afterCap; split <;> rfl
@[simp] theorem State.afterCap_ids : (s.afterCap f).ids = s.ids := by
  unfold State.afterCap; split <;> rfl
@[simp] theorem State.afterCap_cmd : (s.afterCap f).cmd = s.cmd := by
  unfold State.afterCap; split <;> rfl
@[simp] theorem State.afterCap_status : (s.afterCap f).status = s.status := by
  unfold State.afterCap; split <;> rfl
@[simp] theorem State.afterCap_opa : (s.afterCap f).opa = s.opa := by
  unfold State.afterCap; split <;> rfl
@[simp] theorem State.afterCap_opb : (s.afterCap f).opb = s.opb := by
  unfold State.afterCap; split <;> rfl
@[simp] theorem State.afterCap_res0 : (s.afterCap f).res0 = s.res0 := by
  unfold State.afterCap; split <;> rfl
@[simp] theorem State.afterCap_res1 : (s.afterCap f).res1 = s.res1 := by
  unfold State.afterCap; split <;> rfl
theorem State.afterCap_caps :
    (s.afterCap f).caps =
      if capCell s.caps f = 0 then setCapCell s.caps f (capAnswer (probe s.par s.ids f)) else s.caps := by
  unfold State.afterCap; split <;> rfl
@[simp] theorem State.afterCap_ginited : (s.afterCap f).ginited = s.ginited := by
  unfold State.afterCap; split <;> rfl
@[simp] theorem State.afterCap_sxacc : (s.afterCap f).sxacc = s.sxacc := by
  unfold State.afterCap; split <;> rfl
@[simp] theorem State.afterCap_g32 : (s.afterCap f).g32 = s.g32 := by
  unfold State.afterCap; split <;> rfl
@[simp] theorem State.afterCap_g64 : (s.afterCap f).g64 = s.g64 := by
  unfold State.afterCap; split <;> rfl
@[simp] theorem State.afterCap_gf : (s.afterCap f).gf = s.gf := by
  unfold State.afterCap; split <;> rfl
@[simp] theorem State.afterCap_gd : (s.afterCap f).gd = s.gd := by
  unfold State.afterCap; split <;> rfl
@[simp] theorem State.afterCap_buf : (s.afterCap f).buf = s.buf := by
  unfold State.afterCap; split <;> rfl
@[simp] theorem State.afterCap_bufGen : (s.afterCap f).bufGen = s.bufGen := by
  unfold State.afterCap; split <;> rfl
@[simp] theorem State.afterCap_fast : (s.afterCap f).fast = s.fast := by
  unfold State.afterCap; split <;> rfl
@[simp] theorem State.afterCap_ent : (s.afterCap f).ent = s.ent := by
  unfold State.afterCap; split <;> rfl
@[simp] theorem State.afterCap_cyc : (s.afterCap f).cyc = s.cyc := by
  unfold State.afterCap; split <;> rfl
@[simp] theorem State.afterCap_port : (s.afterCap f).port = s.port := by
  unfold State.afterCap; split <;> rfl
@[simp] theorem State.afterCap_resp : (s.afterCap f).resp = s.resp := by
  unfold State.afterCap; split <;> rfl
@[simp] theorem State.afterCap_held : (s.afterCap f).held = s.held := by
  unfold State.afterCap; split <;> rfl

end afterCap

section advance

variable (v : Variant) (s : State)

@[simp] theorem State.advance_par : (s.advance v).par = s.par := by cases v <;> rfl
@[simp] theorem State.advance_ids : (s.advance v).ids = s.ids := by cases v <;> rfl
@[simp] theorem State.advance_cmd : (s.advance v).cmd = s.cmd := by cases v <;> rfl
@[simp] theorem State.advance_status : (s.advance v).status = s.status := by cases v <;> rfl
@[simp] theorem State.advance_opa : (s.advance v).opa = s.opa := by cases v <;> rfl
@[simp] theorem State.advance_opb : (s.advance v).opb = s.opb := by cases v <;> rfl
@[simp] theorem State.advance_res0 : (s.advance v).res0 = s.res0 := by cases v <;> rfl
@[simp] theorem State.advance_res1 : (s.advance v).res1 = s.res1 := by cases v <;> rfl
@[simp] theorem State.advance_caps : (s.advance v).caps = s.caps := by cases v <;> rfl
@[simp] theorem State.advance_ginited : (s.advance v).ginited = s.ginited := by cases v <;> rfl
@[simp] theorem State.advance_sxacc : (s.advance v).sxacc = s.sxacc := by cases v <;> rfl
@[simp] theorem State.advance_g32 : (s.advance v).g32 = if v = .g32 then (stepG32 s.par s.g32).2 else s.g32 := by
  cases v <;> simp [State.advance]
@[simp] theorem State.advance_g64 : (s.advance v).g64 = if v = .g64 then (stepG64 s.par s.g64).2 else s.g64 := by
  cases v <;> simp [State.advance]
@[simp] theorem State.advance_gf : (s.advance v).gf = if v = .gf then (stepGf s.par s.gf).2 else s.gf := by
  cases v <;> simp [State.advance]
@[simp] theorem State.advance_gd : (s.advance v).gd = if v = .gd then (stepGd s.par s.gd).2 else s.gd := by
  cases v <;> simp [State.advance]
@[simp] theorem State.advance_buf : (s.advance v).buf = s.buf := by cases v <;> rfl
@[simp] theorem State.advance_bufGen : (s.advance v).bufGen = s.bufGen := by cases v <;> rfl
@[simp] theorem State.advance_fast : (s.advance v).fast = s.fast := by cases v <;> rfl
@[simp] theorem State.advance_ent : (s.advance v).ent = s.ent := by cases v <;> rfl
@[simp] theorem State.advance_cyc : (s.advance v).cyc = s.cyc := by cases v <;> rfl
@[simp] theorem State.advance_port : (s.advance v).port = s.port := by cases v <;> rfl
@[simp] theorem State.advance_resp : (s.advance v).resp = s.resp := by cases v <;> rfl
@[simp] theorem State.advance_held : (s.advance v).held = s.held := by cases v <;> rfl

end advance

section jumpFile

variable (v : Variant) (s : State)

@[simp] theorem State.jumpFile_par : (s.jumpFile v).par = s.par := by cases v <;> rfl
@[simp] theorem State.jumpFile_ids : (s.jumpFile v).ids = s.ids := by cases v <;> rfl
@[simp] theorem State.jumpFile_cmd : (s.jumpFile v).cmd = s.cmd := by cases v <;> rfl
@[simp] theorem State.jumpFile_status : (s.jumpFile v).status = s.status := by cases v <;> rfl
@[simp] theorem State.jumpFile_opa : (s.jumpFile v).opa = s.opa := by cases v <;> rfl
@[simp] theorem State.jumpFile_opb : (s.jumpFile v).opb = s.opb := by cases v <;> rfl
@[simp] theorem State.jumpFile_res0 : (s.jumpFile v).res0 = s.res0 := by cases v <;> rfl
@[simp] theorem State.jumpFile_res1 : (s.jumpFile v).res1 = s.res1 := by cases v <;> rfl
@[simp] theorem State.jumpFile_caps : (s.jumpFile v).caps = s.caps := by cases v <;> rfl
@[simp] theorem State.jumpFile_ginited : (s.jumpFile v).ginited = s.ginited := by cases v <;> rfl
@[simp] theorem State.jumpFile_sxacc : (s.jumpFile v).sxacc = s.sxacc := by cases v <;> rfl
@[simp] theorem State.jumpFile_g32 : (s.jumpFile v).g32 = if v = .g32 then jumpQuad32 s.par s.g32 else s.g32 := by
  cases v <;> simp [State.jumpFile]
@[simp] theorem State.jumpFile_g64 : (s.jumpFile v).g64 = if v = .g64 then jumpQuad64 s.par s.g64 else s.g64 := by
  cases v <;> simp [State.jumpFile]
@[simp] theorem State.jumpFile_gf : (s.jumpFile v).gf = if v = .gf then jumpQuad32 s.par s.gf else s.gf := by
  cases v <;> simp [State.jumpFile]
@[simp] theorem State.jumpFile_gd : (s.jumpFile v).gd = if v = .gd then jumpDuo s.par s.gd else s.gd := by
  cases v <;> simp [State.jumpFile]
@[simp] theorem State.jumpFile_buf : (s.jumpFile v).buf = s.buf := by cases v <;> rfl
@[simp] theorem State.jumpFile_bufGen : (s.jumpFile v).bufGen = s.bufGen := by cases v <;> rfl
@[simp] theorem State.jumpFile_fast : (s.jumpFile v).fast = s.fast := by cases v <;> rfl
@[simp] theorem State.jumpFile_ent : (s.jumpFile v).ent = s.ent := by cases v <;> rfl
@[simp] theorem State.jumpFile_cyc : (s.jumpFile v).cyc = s.cyc := by cases v <;> rfl
@[simp] theorem State.jumpFile_port : (s.jumpFile v).port = s.port := by cases v <;> rfl
@[simp] theorem State.jumpFile_resp : (s.jumpFile v).resp = s.resp := by cases v <;> rfl
@[simp] theorem State.jumpFile_held : (s.jumpFile v).held = s.held := by cases v <;> rfl

end jumpFile

section initFile

variable (v : Variant) (seed : U64) (s : State)

@[simp] theorem State.initFile_par : (s.initFile v seed).par = s.par := by cases v <;> rfl
@[simp] theorem State.initFile_ids : (s.initFile v seed).ids = s.ids := by cases v <;> rfl
@[simp] theorem State.initFile_cmd : (s.initFile v seed).cmd = s.cmd := by cases v <;> rfl
@[simp] theorem State.initFile_status : (s.initFile v seed).status = s.status := by cases v <;> rfl
@[simp] theorem State.initFile_opa : (s.initFile v seed).opa = s.opa := by cases v <;> rfl
@[simp] theorem State.initFile_opb : (s.initFile v seed).opb = s.opb := by cases v <;> rfl
@[simp] theorem State.initFile_res0 : (s.initFile v seed).res0 = s.res0 := by cases v <;> rfl
@[simp] theorem State.initFile_res1 : (s.initFile v seed).res1 = s.res1 := by cases v <;> rfl
@[simp] theorem State.initFile_caps : (s.initFile v seed).caps = s.caps := by cases v <;> rfl
@[simp] theorem State.initFile_ginited : (s.initFile v seed).ginited = s.ginited := by cases v <;> rfl
@[simp] theorem State.initFile_sxacc : (s.initFile v seed).sxacc = s.sxacc := by cases v <;> rfl
@[simp] theorem State.initFile_g32 : (s.initFile v seed).g32 = if v = .g32 then initQuad32 s.par seed else s.g32 := by
  cases v <;> simp [State.initFile]
@[simp] theorem State.initFile_g64 : (s.initFile v seed).g64 = if v = .g64 then initQuad64 s.par seed else s.g64 := by
  cases v <;> simp [State.initFile]
@[simp] theorem State.initFile_gf : (s.initFile v seed).gf = if v = .gf then initQuad32 s.par seed else s.gf := by
  cases v <;> simp [State.initFile]
@[simp] theorem State.initFile_gd : (s.initFile v seed).gd = if v = .gd then initDuo s.par seed else s.gd := by
  cases v <;> simp [State.initFile]
@[simp] theorem State.initFile_buf : (s.initFile v seed).buf = s.buf := by cases v <;> rfl
@[simp] theorem State.initFile_bufGen : (s.initFile v seed).bufGen = s.bufGen := by cases v <;> rfl
@[simp] theorem State.initFile_fast : (s.initFile v seed).fast = s.fast := by cases v <;> rfl
@[simp] theorem State.initFile_ent : (s.initFile v seed).ent = s.ent := by cases v <;> rfl
@[simp] theorem State.initFile_cyc : (s.initFile v seed).cyc = s.cyc := by cases v <;> rfl
@[simp] theorem State.initFile_port : (s.initFile v seed).port = s.port := by cases v <;> rfl
@[simp] theorem State.initFile_resp : (s.initFile v seed).resp = s.resp := by cases v <;> rfl
@[simp] theorem State.initFile_held : (s.initFile v seed).held = s.held := by cases v <;> rfl

end initFile

end Sys2Proof.Machine
end

