-- ==== Sys2Proof/Laws/Memory.lean ====
section
/-!
SUPPORT. The laws of the buffer's memory: reading after writing, and the canonical form that every operation keeps.
-/

namespace Sys2Proof.Machine

open Sys2Proof

/-- Reading one byte after setting one byte. -/
@[simp] theorem Memory.get?_set (m : Memory) (a b : Nat) (v : Byte) :
    (m.set a v).get? b = if b = a then some v else m.get? b := by
  induction m with
  | nil => simp [Memory.set, Memory.get?]
  | cons c m ih =>
    obtain ⟨d, u⟩ := c
    simp only [Memory.set]
    split
    · simp [Memory.get?]
    · split
      · subst_vars; by_cases h : b = d <;> simp [Memory.get?, h]
      · by_cases h : b = d
        · subst h; simp [Memory.get?]; omega
        · simp [Memory.get?, h, ih]

/-- What the list holds after setting one byte. -/
theorem Memory.mem_set {m : Memory} {a : Nat} {v : Byte} {c : Host.Cell} (h : c ∈ m.set a v) :
    c = (a, v) ∨ c ∈ m := by
  induction m with
  | nil => simpa [Memory.set] using h
  | cons d m ih =>
    obtain ⟨d, u⟩ := d
    simp only [Memory.set] at h
    split at h
    · simpa using h
    · split at h
      · simp only [List.mem_cons] at h ⊢; tauto
      · simp only [List.mem_cons] at h ⊢
        rcases h with h | h
        · exact .inr (.inl h)
        · exact (ih h).imp id .inr

theorem Memory.wf_nil : Memory.wf [] = true := rfl

/-- The canonical form of a nonempty list. -/
theorem Memory.wf_cons {c : Host.Cell} {m : Memory} :
    Memory.wf (c :: m) = true ↔ (∀ d ∈ m, c.1 < d.1) ∧ Memory.wf m = true := by
  simp [Memory.wf]

/-- Setting one byte keeps the canonical form. -/
theorem Memory.wf_set {m : Memory} (h : m.wf = true) (a : Nat) (v : Byte) : (m.set a v).wf = true := by
  induction m with
  | nil => simp [Memory.set, Memory.wf]
  | cons c m ih =>
    obtain ⟨b, u⟩ := c
    rw [Memory.wf_cons] at h
    simp only [Memory.set]
    split
    · rename_i hab
      rw [Memory.wf_cons, Memory.wf_cons]
      refine ⟨fun d hd => ?_, h⟩
      rcases List.mem_cons.mp hd with rfl | hd
      · exact hab
      · exact hab.trans (h.1 d hd)
    · split
      · subst_vars; exact Memory.wf_cons.mpr h
      · refine Memory.wf_cons.mpr ⟨fun d hd => ?_, ih h.2⟩
        rcases Memory.mem_set hd with rfl | hd
        · simp only; omega
        · exact h.1 d hd

/-- Two canonical memories that read the same at every offset are the same list. -/
theorem Memory.ext_of_wf {m n : Memory} (hm : m.wf = true) (hn : n.wf = true)
    (h : ∀ a, m.get? a = n.get? a) : m = n := by
  have low : ∀ {k : Memory} {a : Nat}, (∀ d ∈ k, a < d.1) → k.get? a = none := by
    intro k a hk
    induction k with
    | nil => rfl
    | cons d k ih =>
      have := hk d (by simp)
      simp only [Memory.get?, if_neg (Nat.ne_of_lt this)]
      exact ih fun e he => hk e (by simp [he])
  induction m generalizing n with
  | nil =>
    cases n with
    | nil => rfl
    | cons d n => have := h d.1; simp [Memory.get?] at this
  | cons c m ih =>
    cases n with
    | nil => have := h c.1; simp [Memory.get?] at this
    | cons d n =>
      rw [Memory.wf_cons] at hm hn
      have hc := h c.1
      have hd := h d.1
      obtain ⟨c, u⟩ := c
      obtain ⟨d, v⟩ := d
      have hcd : c = d := by
        rcases Nat.lt_trichotomy c d with hlt | heq | hlt
        · have : Memory.get? n c = none := low fun e he => hlt.trans (hn.1 e he)
          simp [Memory.get?, Nat.ne_of_lt hlt, this] at hc
        · exact heq
        · have : Memory.get? m d = none := low fun e he => hlt.trans (hm.1 e he)
          simp [Memory.get?, Nat.ne_of_lt hlt, this] at hd
      subst hcd
      have huv : u = v := by simpa [Memory.get?] using hc
      subst huv
      have hmn : m = n := ih hm.2 hn.2 fun a => by
        by_cases ha : a = c
        · subst ha; rw [low hm.1, low hn.1]
        · have := h a; simpa [Memory.get?, ha] using this
      rw [hmn]

/-- Reading one byte after a write of `n` bytes: byte `i` of the value inside the range, what was there outside. -/
theorem Memory.get?_write (m : Memory) (a n b : Nat) (v : U64) :
    (m.write a n v).get? b =
      if a ≤ b ∧ b < a + n then some ((v >>> (8 * (b - a))).setWidth 8) else m.get? b := by
  induction n generalizing m a v with
  | zero => simp [Memory.write]
  | succ n ih =>
    simp only [Memory.write, ih, Memory.get?_set]
    by_cases h1 : a + 1 ≤ b ∧ b < a + 1 + n
    · have h2 : a ≤ b ∧ b < a + (n + 1) := by omega
      rw [if_pos h1, if_pos h2, ← BitVec.shiftRight_add]
      congr 3; omega
    · rw [if_neg h1]
      by_cases h3 : b = a
      · subst h3; simp
      · rw [if_neg h3, if_neg (by omega)]

/-- A write of bytes keeps the canonical form. -/
theorem Memory.wf_write {m : Memory} (h : m.wf = true) (a n : Nat) (v : U64) : (m.write a n v).wf = true := by
  induction n generalizing m a v with
  | zero => exact h
  | succ n ih => exact ih (Memory.wf_set h _ _) _ _

/-- What the list holds after a write of bytes: cells of the written range, or cells of before. -/
theorem Memory.mem_write {m : Memory} {a n : Nat} {v : U64} {c : Host.Cell} (h : c ∈ m.write a n v) :
    (a ≤ c.1 ∧ c.1 < a + n) ∨ c ∈ m := by
  induction n generalizing m a v with
  | zero => exact .inr h
  | succ n ih =>
    rcases ih h with h | h
    · exact .inl (by omega)
    · rcases Memory.mem_set h with rfl | h
      · exact .inl (by simp)
      · exact .inr h

/-- The memory of the reset state has the canonical form. -/
theorem reset_buf_wf : State.reset.buf.wf = true := rfl

/-- The byte read of a state depends on the written bytes and on the generation of the unwritten ones only. -/
theorem State.bufByte_congr {s t : State} (hb : t.buf = s.buf) (hg : t.bufGen = s.bufGen) (a : Nat) :
    t.bufByte a = s.bufByte a := by
  unfold State.bufByte; rw [hb, hg]

/-- A read of no byte is 0. -/
@[simp] theorem State.memRead_zero (s : State) (a : Nat) : s.memRead a 0 = 0 := rfl

/-- A read of `n + 1` bytes: the first byte below, the rest 8 bits higher (20_memory.md R65). -/
theorem State.memRead_succ (s : State) (a n : Nat) :
    s.memRead a (n + 1) = (s.bufByte a).setWidth 64 ||| (s.memRead (a + 1) n <<< 8) := rfl

/-- A read of bytes depends on those bytes only. -/
theorem State.memRead_congr {s t : State} {a n : Nat}
    (h : ∀ b, a ≤ b → b < a + n → t.bufByte b = s.bufByte b) : t.memRead a n = s.memRead a n := by
  induction n generalizing a with
  | zero => rfl
  | succ n ih =>
    rw [State.memRead_succ, State.memRead_succ, h a (by omega) (by omega),
      ih fun b h1 h2 => h b (by omega) (by omega)]

end Sys2Proof.Machine
end

