-- ==== Sys2Proof/Laws/Ops.lean ====
section
/-!
SUPPORT. What each shared operation can do, said once: the capability cache, the gates, the draws, the sampler's
outcome, and the host accesses.
-/

namespace Sys2Proof.Machine

open Sys2Proof

/-- An evaluation of `cap` on an `unknown` cell. -/
theorem State.afterCap_unknown {f : Feature} {s : State} (h : capCell s.caps f = 0) :
    s.afterCap f = { s with caps := setCapCell s.caps f (capAnswer (probe s.par s.ids f)) } := if_pos h

/-- An evaluation of `cap` on a cached cell changes nothing. -/
theorem State.afterCap_known {f : Feature} {s : State} (h : capCell s.caps f ≠ 0) : s.afterCap f = s := if_neg h

/-- An evaluation of `cap` changes `CAPS` only. -/
theorem State.afterCap_eq (f : Feature) (s : State) : s.afterCap f = { s with caps := (s.afterCap f).caps } := by
  unfold State.afterCap; split <;> rfl

/-- The answer of `cap` on a cached cell. -/
theorem State.capAvailable_known {f : Feature} {s : State} (h : capCell s.caps f ≠ 0) :
    s.capAvailable f = (capCell s.caps f == 1) := by
  rw [State.capAvailable, State.afterCap_known h]

/-- A gated command: `body` on the state after the evaluation of `cap(CRC)`, or `UNAVAIL`. -/
theorem gatedByCrc_cases (s : State) (body : State → State) :
    (s.capAvailable .crc = true ∧ gatedByCrc s body = body (s.afterCap .crc)) ∨
      (s.capAvailable .crc = false ∧ gatedByCrc s body = (s.afterCap .crc).raise .unavail) := by
  unfold gatedByCrc
  cases s.capAvailable .crc <;> simp

/-- A command that steps a generator: `NOINIT`, or its body on the same state. -/
theorem needsInit_cases (v : Variant) (s : State) (body : State → Host.Outcome State Fault Refusal) :
    (isInited s.ginited v = true ∧ needsInit v s body = body s) ∨
      (isInited s.ginited v = false ∧ needsInit v s body = .next (s.raise .noinit)) := by
  unfold needsInit
  cases isInited s.ginited v <;> simp

/-- A draw of a scripted value. -/
@[simp] theorem Feed.draw_cons {α : Type} (free : Nat → α) (a : α) (rest : List α) (n : Nat) :
    (Feed.mk (a :: rest) n).draw free = (a, ⟨rest, n + 1⟩) := rfl

/-- A draw with nothing scripted is a free value. -/
@[simp] theorem Feed.draw_nil {α : Type} (free : Nat → α) (n : Nat) :
    (Feed.mk [] n).draw free = (free n, ⟨[], n + 1⟩) := rfl

/-- A draw is the feed's next answer, and moves the feed on by one. -/
theorem Feed.draw_eq {α : Type} (free : Nat → α) (q : Feed α) : q.draw free = (q.answer free 0, q.after 1) := by
  obtain ⟨_ | ⟨a, rest⟩, n⟩ := q <;> rfl

/-- The answers of a feed moved on. -/
theorem Feed.answer_after {α : Type} (free : Nat → α) (q : Feed α) (n j : Nat) :
    (q.after n).answer free j = q.answer free (n + j) := by
  simp [Feed.answer, Feed.after, List.getElem?_drop, Nat.add_assoc]

/-- Moving a feed on twice. -/
@[simp] theorem Feed.after_after {α : Type} (q : Feed α) (m n : Nat) : (q.after m).after n = q.after (m + n) := by
  simp [Feed.after, Nat.add_assoc]

@[simp] theorem acquire_zero (free : Nat → Attempt) (q : Feed Attempt) : acquire free 0 q = (none, q) := rfl

/-- An attempt that succeeds ends the loop. -/
theorem acquire_succ_ok {free : Nat → Attempt} {n : Nat} {q : Feed Attempt} (h : (q.answer free 0).ok = true) :
    acquire free (n + 1) q = (some (q.answer free 0).data, q.after 1) := by
  simp [acquire, Feed.draw_eq, h]

/-- An attempt that fails is followed by the rest of the loop. -/
theorem acquire_succ_fail {free : Nat → Attempt} {n : Nat} {q : Feed Attempt}
    (h : (q.answer free 0).ok = false) : acquire free (n + 1) q = acquire free n (q.after 1) := by
  simp [acquire, Feed.draw_eq, h]

/-- The loop leaves the feed moved on by a number of attempts within the bound. -/
theorem acquire_moves_feed (free : Nat → Attempt) (n : Nat) (q : Feed Attempt) :
    ∃ k ≤ n, (acquire free n q).2 = q.after k := by
  induction n generalizing q with
  | zero => exact ⟨0, le_rfl, by simp [Feed.after]⟩
  | succ n ih =>
    cases h : (q.answer free 0).ok
    · obtain ⟨k, hk, e⟩ := ih (q.after 1)
      exact ⟨1 + k, by omega, by rw [acquire_succ_fail h, e, Feed.after_after]⟩
    · exact ⟨1, by omega, by rw [acquire_succ_ok h]⟩

/-- What `bounded` on G32 gives when it ends. -/
theorem State.sampleG32_next {min limit : U32} {s t : State} (h : s.sampleG32 min limit = .next t) :
    ∃ r f, bounded (stepG32 s.par) limit s.g32 = some (r, f) ∧
      t = ({ s with g32 := f }.withRes0 (min + r)).succeed := by
  unfold State.sampleG32 at h
  split at h
  · rename_i r f hb; exact ⟨r, f, hb, by cases h; rfl⟩
  · cases h

/-- What `bounded` on G64 gives when it ends. -/
theorem State.sampleG64_next {min limit : U64} {s t : State} (h : s.sampleG64 min limit = .next t) :
    ∃ r f, bounded (stepG64 s.par) limit s.g64 = some (r, f) ∧
      t = ({ s with g64 := f }.withRes0 (min + r)).succeed := by
  unfold State.sampleG64 at h
  split at h
  · rename_i r f hb; exact ⟨r, f, hb, by cases h; rfl⟩
  · cases h

/-- The rejection loop on an accepted draw returns its high half at once. -/
theorem redraw_accept {w : Nat} {σ : Type} (draw : σ → BitVec w × σ) {limit : BitVec w} {m : Nat}
    (h : ¬ loHalf w m < threshold limit) (n : Nat) (st : σ) :
    redraw draw limit n m st = some (hiHalf w m, st) := by
  cases n <;> simp [redraw, h]

/-- The rejection loop on a rejected draw makes one more. -/
theorem redraw_reject {w : Nat} {σ : Type} (draw : σ → BitVec w × σ) {limit : BitVec w} {m : Nat}
    (h : loHalf w m < threshold limit) (n : Nat) (st : σ) :
    redraw draw limit (n + 1) m st = redraw draw limit n (wideMul (draw st).1 limit) (draw st).2 := by
  simp [redraw, h]

/-- An exclusive-or shift loses nothing: its top bits are its operand's, and each bit gives the next one down
(40_mixer.md R124). -/
theorem xorShiftRight_injective {w n : Nat} (hn : 0 < n) :
    Function.Injective fun k : BitVec w => xorShiftRight k n := by
  intro x y h
  have hb : ∀ d i, w ≤ i + d → x.getLsbD i = y.getLsbD i := by
    intro d
    induction d with
    | zero => intro i hi; rw [BitVec.getLsbD_of_ge x i (by omega), BitVec.getLsbD_of_ge y i (by omega)]
    | succ d ih =>
      intro i hi
      have e := congrArg (fun k => k.getLsbD i) h
      simp only [xorShiftRight, BitVec.getLsbD_xor, BitVec.getLsbD_ushiftRight] at e
      rw [ih (n + i) (by omega)] at e
      simpa using e
  exact BitVec.eq_of_getLsbD_eq fun i _ => hb w i (by omega)

/-- A refused read changes the port's answer only. -/
theorem State.hostRead_refused {s : State} {off n : Nat}
    (h : (regAccessOk off n || bufAccessOk s.par off n) = false) :
    s.hostRead off n = { s with resp := .busError } := by
  simp [State.hostRead, h]

/-- An accepted read changes the port's answer only. -/
theorem State.hostRead_accepted {s : State} {off n : Nat}
    (h : (regAccessOk off n || bufAccessOk s.par off n) = true) :
    s.hostRead off n = { s with resp := .data (s.readData off n) } := by
  simp [State.hostRead, h]

/-- A refused write changes the port's answer only. -/
theorem State.hostWrite_refused {s : State} {off n : Nat} {v : U64}
    (h : (regAccessOk off n || bufAccessOk s.par off n) = false) :
    s.hostWrite off n v = { s with resp := .busError } := by
  simp [State.hostWrite, h]

/-- An accepted write stores its data. -/
theorem State.hostWrite_accepted {s : State} {off n : Nat} {v : U64}
    (h : (regAccessOk off n || bufAccessOk s.par off n) = true) :
    s.hostWrite off n v = { s.storeData off n v with resp := .accepted } := by
  simp [State.hostWrite, h]

/-- An access is a write of `CMD` exactly at offset 0 with 8 bytes. -/
theorem isCmdAccess_iff (off n : Nat) : isCmdAccess off n = true ↔ off = 0 ∧ n = 8 := by
  constructor
  · intro h
    simp only [isCmdAccess, Bool.and_eq_true, beq_iff_eq] at h
    obtain ⟨h1, h2⟩ := h
    simp only [regAccessOk, Bool.and_eq_true, decide_eq_true_eq] at h1
    refine ⟨?_, h1.1.2⟩
    unfold regAt at h2
    obtain ⟨e, he, hc⟩ := Option.map_eq_some_iff.mp h2
    have hm := List.mem_of_find?_eq_some he
    have hp : e.1 = off := by simpa using List.find?_some he
    have key : ∀ e ∈ regMap, e.2 = Reg.cmd → e.1 = 0 := by decide
    rw [← hp]; exact key e hm hc
  · rintro ⟨rfl, rfl⟩; decide

/-- A write of `CMD` stores the word and is accepted. -/
theorem State.hostWrite_cmd (s : State) (w : U64) :
    s.hostWrite 0 8 w = { s with cmd := w, resp := .accepted } := by
  have h : (regAccessOk 0 8 || bufAccessOk s.par 0 8) = true := by simp [regAccessOk, bufBase]
  rw [State.hostWrite_accepted h]
  rfl

end Sys2Proof.Machine
end

