-- ==== Sys2Proof/Laws/Exec.lean ====
section
/-!
SUPPORT. One step, and what each family's meaning gives, in the terms of the shared operations.
-/

namespace Sys2Proof.Machine

open Sys2Proof

/-- While a `CMD` write is held a step is what a reset does, or nothing. -/
theorem step_held {s : State} (hh : s.held = true) : step s = .next s.whileHeld := by
  unfold step; rw [hh]; rfl

/-- With nothing at the port a step changes nothing. -/
theorem step_idle {s : State} (hh : s.held = false) (h : s.port = []) : step s = .next s := by
  unfold step; rw [hh, h]; rfl

/-- A step performs the oldest event at the port. -/
theorem step_cons {s : State} {e : HostEvent} {rest : List HostEvent} (hh : s.held = false) (h : s.port = e :: rest) :
    step s = perform e { s with port := rest } := by
  unfold step; rw [hh, h]; rfl

/-- A write of anything but `CMD`. -/
theorem step_write {s : State} {off n : Nat} {v : U64} {rest : List HostEvent} (hh : s.held = false)
    (h : s.port = .write off n v :: rest) (hc : isCmdAccess off n = false) :
    step s = .next ({ s with port := rest }.hostWrite off n v) := by
  rw [step_cons hh h]; simp [perform, hc]

/-- A write of `CMD` stores the word, is accepted, and runs the word. -/
theorem step_cmd {s : State} {w : U64} {rest : List HostEvent} (hh : s.held = false)
    (h : s.port = .write 0 8 w :: rest) :
    step s = commandStep w { s with port := rest, cmd := w, resp := .accepted } := by
  have hc : isCmdAccess 0 8 = true := by decide
  rw [step_cons hh h]
  simp [perform, hc, State.hostWrite_cmd]

/-- What a write of `CMD` can lead to, said once: the end of a command, `ILLEGAL`, or a write that is held. -/
theorem commandStep_cases {w : U64} {s t : State} (h : commandStep w s = .next t) :
    (∃ i, decodeWord w = some i ∧ exec i s = .next t) ∨
    (decodeWord w = none ∧ t = s.raise .illegal) ∨
    (∃ i, decodeWord w = some i ∧ exec i s = .fault .samplerDiverges ∧ t = s.hold) := by
  unfold commandStep at h
  cases hd : decodeWord w with
  | none =>
    simp only [runCommand, hd] at h
    cases h; exact .inr (.inl ⟨rfl, rfl⟩)
  | some i =>
    simp only [runCommand, hd] at h
    cases he : exec i s with
    | next u => rw [he] at h; cases h; exact .inl ⟨i, rfl, he⟩
    | fault r => cases r; rw [he] at h; cases h; exact .inr (.inr ⟨i, rfl, he, rfl⟩)
    | refused r => rw [he] at h; cases h

/-- The command a reset abandons leaves the state as it was, but for draws it had made. -/
theorem State.abandonCommand_cases (w : U64) (n : Nat) (s : State) :
    (∃ t, runCommand w s = .next t ∧ s.abandonCommand w n = s.drawsUpTo n t) ∨ s.abandonCommand w n = s := by
  unfold State.abandonCommand
  cases runCommand w s with
  | next t => exact .inl ⟨t, rfl, rfl⟩
  | fault _ => exact .inr rfl
  | refused _ => exact .inr rfl

/-- A reset taken from the port is one of its events, and the others stay in their order. -/
theorem takeReset_cases (p : List HostEvent) :
    (takeReset p = none ∧ ∀ e ∈ p, e.resetIds = none) ∨
    (∃ a e b ids, p = a ++ e :: b ∧ (∀ x ∈ a, x.resetIds = none) ∧ e.resetIds = some ids ∧
      takeReset p = some (ids, a ++ b)) := by
  induction p with
  | nil => exact .inl ⟨rfl, by simp⟩
  | cons e p ih =>
    cases he : e.resetIds with
    | some ids => exact .inr ⟨[], e, p, ids, rfl, by simp, he, by simp [takeReset, he]⟩
    | none =>
      rcases ih with ⟨h1, h2⟩ | ⟨a, x, b, ids, h1, h2, h3, h4⟩
      · exact .inl ⟨by simp [takeReset, he, h1], by simpa [he] using h2⟩
      · exact .inr ⟨e :: a, x, b, ids, by simp [h1], by simpa [he] using h2, h3, by simp [takeReset, he, h4]⟩

/-- What a held `CMD` write can lead to: the state a reset leaves, or the same state. -/
theorem State.whileHeld_cases (s : State) :
    (∃ ids rest, takeReset s.port = some (ids, rest) ∧ s.whileHeld = { s with port := rest }.resetBlock ids) ∨
    (takeReset s.port = none ∧ s.whileHeld = s) := by
  unfold State.whileHeld
  cases h : takeReset s.port with
  | none => exact .inr ⟨rfl, rfl⟩
  | some r => exact .inl ⟨r.1, r.2, rfl, rfl⟩

/-- What one step can do, said once: what a held write allows, nothing, a reset, a command abandoned, a read, a write,
or a write of `CMD`. -/
theorem step_cases {s t : State} (h : step s = .next t) :
    (s.held = true ∧ t = s.whileHeld) ∨
    (s.held = false ∧
      ((s.port = [] ∧ t = s) ∨
      (∃ ids rest, s.port = .reset ids :: rest ∧ t = { s with port := rest }.resetBlock ids) ∨
      (∃ w n ids rest, s.port = .abandon w n ids :: rest ∧
        t = ({ s with port := rest }.abandonCommand w n).resetBlock ids) ∨
      (∃ off n rest, s.port = .read off n :: rest ∧ t = { s with port := rest }.hostRead off n) ∨
      (∃ off n v rest, s.port = .write off n v :: rest ∧ isCmdAccess off n = false ∧
        t = { s with port := rest }.hostWrite off n v) ∨
      (∃ w rest, s.port = .write 0 8 w :: rest ∧
        commandStep w { s with port := rest, cmd := w, resp := .accepted } = .next t))) := by
  rcases Bool.eq_false_or_eq_true s.held with hh | hh
  · rw [step_held hh] at h; cases h; exact .inl ⟨hh, rfl⟩
  refine .inr ⟨hh, ?_⟩
  match hp : s.port with
  | [] => rw [step_idle hh hp] at h; cases h; exact .inl ⟨rfl, rfl⟩
  | .reset ids :: rest =>
    rw [step_cons hh hp] at h; cases h; exact .inr (.inl ⟨ids, rest, rfl, rfl⟩)
  | .abandon w n ids :: rest =>
    rw [step_cons hh hp] at h; cases h; exact .inr (.inr (.inl ⟨w, n, ids, rest, rfl, rfl⟩))
  | .read off n :: rest =>
    rw [step_cons hh hp] at h; cases h
    exact .inr (.inr (.inr (.inl ⟨off, n, rest, rfl, rfl⟩)))
  | .write off n v :: rest =>
    cases hc : isCmdAccess off n
    · rw [step_write hh hp hc] at h; cases h
      exact .inr (.inr (.inr (.inr (.inl ⟨off, n, v, rest, rfl, hc, rfl⟩))))
    · obtain ⟨rfl, rfl⟩ := (isCmdAccess_iff off n).mp hc
      rw [step_cmd hh hp] at h
      exact .inr (.inr (.inr (.inr (.inr ⟨v, rest, rfl, h⟩))))

/-- A single-step command of the divider: its result, or `UNAVAIL`. -/
theorem crcCommand_cases (n : Nat) (s : State) :
    (s.capAvailable .crc = true ∧ crcCommand n s =
      ((s.afterCap .crc).withRes0 (crcStep s.par.crcPolyR n (s.opaLow 32) s.opb)).succeed) ∨
    (s.capAvailable .crc = false ∧ crcCommand n s = (s.afterCap .crc).raise .unavail) := by
  have h := gatedByCrc_cases s fun t => (t.withRes0 (crcStep t.par.crcPolyR n (t.opaLow 32) t.opb)).succeed
  simpa [crcCommand, State.opaLow] using h

/-- A hash command: its result, `RANGE`, or `UNAVAIL`. -/
theorem hashCommand_cases {w : Nat} (h : State → Nat → Nat → BitVec w) (s : State) :
    (s.capAvailable .crc = true ∧ hashRangeOk s = true ∧ hashCommand h s =
      ((s.afterCap .crc).withRes0 (h (s.afterCap .crc) s.opa.toNat s.opb.toNat)).succeed) ∨
    (s.capAvailable .crc = true ∧ hashRangeOk s = false ∧
      hashCommand h s = (s.afterCap .crc).raise .range) ∨
    (s.capAvailable .crc = false ∧ hashCommand h s = (s.afterCap .crc).raise .unavail) := by
  have hr : hashRangeOk (s.afterCap .crc) = hashRangeOk s := by simp [hashRangeOk]
  rcases gatedByCrc_cases s fun t =>
      if hashRangeOk t then (t.withRes0 (h t t.opa.toNat t.opb.toNat)).succeed else t.raise .range with
    ⟨h1, h2⟩ | ⟨h1, h2⟩
  · cases hb : hashRangeOk s
    · exact .inr (.inl ⟨h1, rfl, by rw [hashCommand, h2, hr, hb]; rfl⟩)
    · exact .inl ⟨h1, rfl, by rw [hashCommand, h2, hr, hb]; simp⟩
  · exact .inr (.inr ⟨h1, by rw [hashCommand, h2]⟩)

/-- `TRYFAST` after the gate: the word delivered, or `EXHAUSTED`. -/
theorem State.tryFast_cases (s : State) :
    (∃ d, s.acquireFast.1 = some d ∧ s.tryFast = s.deliverFast d) ∨
    (s.acquireFast.1 = none ∧ s.tryFast = { s with fast := s.acquireFast.2 }.raise .exhausted) := by
  unfold State.tryFast
  split
  · rename_i d h; exact .inl ⟨d, h, rfl⟩
  · rename_i h; exact .inr ⟨h, rfl⟩

/-- `TRYENT` after the gate: the word delivered, or `EXHAUSTED`. -/
theorem State.tryEnt_cases (s : State) :
    (∃ d, s.acquireEnt.1 = some d ∧ s.tryEnt = s.deliverEnt d) ∨
    (s.acquireEnt.1 = none ∧ s.tryEnt = { s with ent := s.acquireEnt.2 }.raise .exhausted) := by
  unfold State.tryEnt
  split
  · rename_i d h; exact .inl ⟨d, h, rfl⟩
  · rename_i h; exact .inr ⟨h, rfl⟩

/-- The fast step of `AUTOSEED`: it delivers, or the cycle step follows on the state the attempts left. -/
theorem State.seedFromFast_cases (s : State) :
    (s.capAvailable .fast = true ∧ ∃ d, (s.afterCap .fast).acquireFast.1 = some d ∧
      s.seedFromFast = (s.afterCap .fast).deliverFast d) ∨
    (s.capAvailable .fast = true ∧ (s.afterCap .fast).acquireFast.1 = none ∧
      s.seedFromFast = { s.afterCap .fast with fast := (s.afterCap .fast).acquireFast.2 }.seedFromCycle) ∨
    (s.capAvailable .fast = false ∧ s.seedFromFast = (s.afterCap .fast).seedFromCycle) := by
  unfold State.seedFromFast
  cases hc : s.capAvailable .fast
  · simp
  · cases ha : (s.afterCap .fast).acquireFast.1 <;> simp

/-- The entropy step of `AUTOSEED`: it delivers, or the fast step follows on the state the attempts left. -/
theorem State.seedFromEnt_cases (s : State) :
    (s.capAvailable .ent = true ∧ ∃ d, (s.afterCap .ent).acquireEnt.1 = some d ∧
      s.seedFromEnt = (s.afterCap .ent).deliverEnt d) ∨
    (s.capAvailable .ent = true ∧ (s.afterCap .ent).acquireEnt.1 = none ∧
      s.seedFromEnt = { s.afterCap .ent with ent := (s.afterCap .ent).acquireEnt.2 }.seedFromFast) ∨
    (s.capAvailable .ent = false ∧ s.seedFromEnt = (s.afterCap .ent).seedFromFast) := by
  unfold State.seedFromEnt
  cases hc : s.capAvailable .ent
  · simp
  · cases ha : (s.afterCap .ent).acquireEnt.1 <;> simp

end Sys2Proof.Machine
end

