-- ==== Sys2Proof/Laws/PerInstr.lean ====
section
/-!
SUPPORT. A property of every command as syntax: the shape of its command word (30_encoding.md R90, R94).
-/

namespace Sys2Proof.Laws

open Sys2Proof

/-- The command word carries the command's opcode in `OP`, its selector in `V`, and 0 in `RSV`. -/
def WordShape.Statement (i : Instr) : Prop :=
  opField (encode i) = i.opcode ∧ vField (encode i) = i.selector ∧ rsvField (encode i) = 0

theorem WordShape.nop : WordShape.Statement .nop := ⟨by decide, by decide, by decide⟩

theorem WordShape.mix32 : WordShape.Statement .mix32 := ⟨by decide, by decide, by decide⟩

theorem WordShape.mix64 : WordShape.Statement .mix64 := ⟨by decide, by decide, by decide⟩

theorem WordShape.comb32 : WordShape.Statement .comb32 := ⟨by decide, by decide, by decide⟩

theorem WordShape.comb64 : WordShape.Statement .comb64 := ⟨by decide, by decide, by decide⟩

theorem WordShape.sxnext : WordShape.Statement .sxnext := ⟨by decide, by decide, by decide⟩

theorem WordShape.crc8 : WordShape.Statement .crc8 := ⟨by decide, by decide, by decide⟩

theorem WordShape.crc16 : WordShape.Statement .crc16 := ⟨by decide, by decide, by decide⟩

theorem WordShape.crc32 : WordShape.Statement .crc32 := ⟨by decide, by decide, by decide⟩

theorem WordShape.crc64 : WordShape.Statement .crc64 := ⟨by decide, by decide, by decide⟩

theorem WordShape.hash32 : WordShape.Statement .hash32 := ⟨by decide, by decide, by decide⟩

theorem WordShape.hash64 : WordShape.Statement .hash64 := ⟨by decide, by decide, by decide⟩

theorem WordShape.ginit (v : Variant) : WordShape.Statement (.ginit v) := by
  cases v <;> exact ⟨by decide, by decide, by decide⟩

theorem WordShape.gnext (v : Variant) : WordShape.Statement (.gnext v) := by
  cases v <;> exact ⟨by decide, by decide, by decide⟩

theorem WordShape.gjump (v : Variant) : WordShape.Statement (.gjump v) := by
  cases v <;> exact ⟨by decide, by decide, by decide⟩

theorem WordShape.gunif (v : Variant) : WordShape.Statement (.gunif v) := by
  cases v <;> exact ⟨by decide, by decide, by decide⟩

theorem WordShape.gbound (v : Variant) : WordShape.Statement (.gbound v) := by
  cases v <;> exact ⟨by decide, by decide, by decide⟩

theorem WordShape.grange (v : Variant) : WordShape.Statement (.grange v) := by
  cases v <;> exact ⟨by decide, by decide, by decide⟩

theorem WordShape.gadopt (v : Variant) : WordShape.Statement (.gadopt v) := by
  cases v <;> exact ⟨by decide, by decide, by decide⟩

theorem WordShape.capq (f : Feature) : WordShape.Statement (.capq f) := by
  cases f <;> exact ⟨by decide, by decide, by decide⟩

theorem WordShape.tryfast : WordShape.Statement .tryfast := ⟨by decide, by decide, by decide⟩

theorem WordShape.tryent : WordShape.Statement .tryent := ⟨by decide, by decide, by decide⟩

theorem WordShape.autoseed : WordShape.Statement .autoseed := ⟨by decide, by decide, by decide⟩

end Sys2Proof.Laws
end

