-- ==== Sys2Proof/Tests/Slice0.lean ====
section
/-!
SUPPORT. Tests: ill-formed terms refused, words written out from the encoding decoded, one step of each command on the
values of spec/95_test_vectors.md, and for every statement with hypotheses a state that meets them.
-/

namespace Sys2Proof.Tests

open Sys2Proof Sys2Proof.Machine

set_option Elab.async false

/-! ### Ill-formed terms -/

theorem test_gunif_g32_refused : (Instr.gunif .g32).wellFormed = false := by decide

theorem test_gunif_g64_refused : (Instr.gunif .g64).wellFormed = false := by decide

theorem test_gbound_gf_refused : (Instr.gbound .gf).wellFormed = false := by decide

theorem test_gbound_gd_refused : (Instr.gbound .gd).wellFormed = false := by decide

theorem test_grange_gf_refused : (Instr.grange .gf).wellFormed = false := by decide

theorem test_grange_gd_refused : (Instr.grange .gd).wellFormed = false := by decide

theorem test_smallest_amount_refused : amountOk 32 0 = false ∧ amountOk 32 32 = false ∧ amountOk 32 31 = true := by
  decide

theorem test_candidate_parameters_in_range : Params.candidate.wf = true := by decide

theorem test_even_increment_refused : ({ Params.candidate with sexpInc := 2 } : Params).wf = false := by decide

/-! ### Decoding: words written field by field, `RSV ++ V ++ OP` (30_encoding.md R90, R92, R93) -/

/-- A command word with `RSV` = 0. -/
def word (v : BitVec 2) (op : BitVec 8) : U64 := (0 : BitVec 54) ++ v ++ op

theorem test_decode_mixer_words :
    decodeWord (word 0b00 0b00000000) = some .nop ∧ decodeWord (word 0b00 0b00000001) = some .mix32 ∧
    decodeWord (word 0b00 0b00000010) = some .mix64 ∧ decodeWord (word 0b00 0b00000011) = some .comb32 ∧
    decodeWord (word 0b00 0b00000100) = some .comb64 ∧ decodeWord (word 0b00 0b00000101) = some .sxnext := by
  decide

theorem test_decode_crc_words :
    decodeWord (word 0b00 0b00010000) = some .crc8 ∧ decodeWord (word 0b00 0b00010001) = some .crc16 ∧
    decodeWord (word 0b00 0b00010010) = some .crc32 ∧ decodeWord (word 0b00 0b00010011) = some .crc64 ∧
    decodeWord (word 0b00 0b00010100) = some .hash32 ∧ decodeWord (word 0b00 0b00010101) = some .hash64 := by
  decide

theorem test_decode_generator_words :
    decodeWord (word 0b00 0b00100000) = some (.ginit .g32) ∧ decodeWord (word 0b01 0b00100001) = some (.gnext .g64) ∧
    decodeWord (word 0b10 0b00100010) = some (.gjump .gf) ∧ decodeWord (word 0b11 0b00100011) = some (.gunif .gd) ∧
    decodeWord (word 0b01 0b00100100) = some (.gbound .g64) ∧
    decodeWord (word 0b00 0b00100101) = some (.grange .g32) ∧ decodeWord (word 0b11 0b00100110) = some (.gadopt .gd) := by
  decide

theorem test_decode_entropy_words :
    decodeWord (word 0b00 0b00110000) = some (.capq .crc) ∧ decodeWord (word 0b01 0b00110000) = some (.capq .fast) ∧
    decodeWord (word 0b10 0b00110000) = some (.capq .ent) ∧ decodeWord (word 0b00 0b00110001) = some .tryfast ∧
    decodeWord (word 0b00 0b00110010) = some .tryent ∧ decodeWord (word 0b00 0b00110011) = some .autoseed := by
  decide

/-- 95_test_vectors.md section 2.14 and 30_encoding.md R95: each way a word is illegal. -/
theorem test_illegal_words :
    decodeWord 0x7F = none ∧ decodeWord 0x101 = none ∧ decodeWord 0x023 = none ∧ decodeWord 0x123 = none ∧
    decodeWord 0x224 = none ∧ decodeWord 0x325 = none ∧ decodeWord 0x330 = none ∧ decodeWord 0x421 = none ∧
    decodeWord 0x8000000000000000 = none := by
  decide

theorem test_table_word : decodeTableWord 64 0x121 = some (.gnext .g64) ∧ decodeTableWord 64 0x421 = none := by decide

/-! ### One step of each command -/

/-- The value a command leaves in `RES0` and `STATUS`; `none` where it does not go on. -/
def outcome (i : Instr) (s : State) : Option (U64 × U64) :=
  match exec i s with
  | .next t => some (t.res0, t.status)
  | .fault _ => none
  | .refused _ => none

/-- A value of the state a command leaves. -/
def leaves {α : Type} (i : Instr) (s : State) (f : State → α) : Option α :=
  match exec i s with
  | .next t => some (f t)
  | .fault _ => none
  | .refused _ => none

/-- The reset state with two operands. -/
def ops (a b : U64) : State := { State.reset with opa := a, opb := b }

/-- The reset state with the four files the host would write by hand, all adopted (42_prng.md R180). -/
def byHand : State :=
  { State.reset with ginited := 15, g32 := ⟨1, 2, 3, 4⟩, g64 := ⟨1, 2, 3, 4⟩, gf := ⟨1, 2, 3, 4⟩, gd := ⟨1, 2⟩ }

/-- The files after `GINIT` with seed 0 (95_test_vectors.md section 2.8). -/
def seeded : State :=
  { State.reset with
    ginited := 15
    g32 := ⟨0x7B1DCDAF, 0xE220A839, 0xA1B965F4, 0x6E789E6A⟩
    g64 := ⟨0xE220A8397B1DCDAF, 0x6E789E6AA1B965F4, 0x06C45D188009454F, 0xF88BB8A8724C81EC⟩
    gf := ⟨0x7B1DCDAF, 0xE220A839, 0xA1B965F4, 0x6E789E6A⟩
    gd := ⟨0xE220A8397B1DCDAF, 0x6E789E6AA1B965F4⟩ }

/-- No feature present: `id_leaf1` = 0 and `id_maxleaf` = 6. -/
def bare : State := { State.reset with ids := ⟨6, 0, 0x00040000⟩ }

/-- Two attempts on each source, with scripted answers. -/
def scripted (fast ent : List Attempt) (cyc : List U64) : State :=
  { State.reset with
    par := { Params.candidate with fastAttempts := 2, entAttempts := 2 }
    fast := ⟨fast, 0⟩, ent := ⟨ent, 0⟩, cyc := ⟨cyc, 0⟩ }

theorem test_nop : outcome .nop { ops 0 0 with res0 := 7, status := 3 } = some (7, 0) := by decide

theorem test_mix32 : outcome .mix32 (ops 0xFFFFFFFF00000001 0) = some (0x688990C0, 0) := by decide +kernel

theorem test_mix64 : outcome .mix64 (ops 0xDEADBEEFCAFEBABE 0) = some (0x7AD6664F09FFE52C, 0) := by decide +kernel

theorem test_comb32 : outcome .comb32 (ops 0xAAAAAAAA00000001 0xBBBBBBBB00000002) = some (0x9E3779FA, 0) := by
  decide +kernel

theorem test_comb64 : outcome .comb64 (ops 2 1) = some (0x9E3779B97F4A7C94, 0) := by decide +kernel

theorem test_sxnext :
    leaves .sxnext { ops 0 0 with sxacc := 0x9E3779B97F4A7C15 } (fun t => (t.res0, t.sxacc)) =
      some (0x6E789E6AA1B965F4, 0x3C6EF372FE94F82A) := by
  decide +kernel

theorem test_crc8 : outcome .crc8 (ops 0xFFFFFFFF00000000 0xFFFFFFFFFFFFFF01) = some (0xF26B8303, 0) := by
  decide +kernel

theorem test_crc8_unavailable : leaves .crc8 bare (fun t => (t.status, t.caps)) = some (1, 2) := by decide +kernel

theorem test_crc16 : outcome .crc16 (ops 0xFFFFFFFF 0x3231) = some (0x8CAA3B9F, 0) := by decide +kernel

theorem test_crc32 : outcome .crc32 (ops 0x12345678 0x9ABCDEF0) = some (0x796AB9A9, 0) := by decide +kernel

theorem test_crc64 : outcome .crc64 (ops 0xFFFFFFFF 0x3837363534333231) = some (0x9F787F65, 0) := by decide +kernel

/-- `BUF` holding "abcdefg" from offset 3 on. -/
def abcdefg : State :=
  { ops 3 7 with buf := [(3, 0x61), (4, 0x62), (5, 0x63), (6, 0x64), (7, 0x65), (8, 0x66), (9, 0x67)] }

theorem test_hash32 : outcome .hash32 abcdefg = some (0x5EAAE550, 0) := by decide +kernel

theorem test_hash32_range : outcome .hash32 (ops 4097 0) = some (0, 6) := by decide +kernel

theorem test_hash64 : outcome .hash64 abcdefg = some (0x5EAAE550B6438951, 0) := by decide +kernel

theorem test_ginit_g64 :
    leaves (.ginit .g64) (ops 0xDEADBEEFCAFEBABE 0) (fun t => (t.g64, t.ginited)) =
      some (⟨0x0D7D93560D1929D2, 0x491DFB740E50D43F, 0x42722BF4473E5E7D, 0xD6CA8A0790FFFC45⟩, 2) := by
  decide +kernel

theorem test_ginit_gf :
    leaves (.ginit .gf) (ops 0x61C8864680B583EB 0) (fun t => t.gf) = some ⟨0, 0, 0x7B1DCDAF, 0xE220A839⟩ := by
  decide +kernel

theorem test_gnext_g32 :
    leaves (.gnext .g32) byHand (fun t => (t.res0, t.g32)) = some (0x2D00, ⟨0x7, 0x0, 0x402, 0x3000⟩) := by
  decide +kernel

theorem test_gnext_gd :
    leaves (.gnext .gd) byHand (fun t => (t.res0, t.gd)) = some (0x3, ⟨0x0000000001030003, 0x0000006000000000⟩) := by
  decide +kernel

theorem test_gjump_g64 :
    leaves (.gjump .g64) seeded (fun t => t.g64) =
      some ⟨0xFEE4F58CD4A88D82, 0xEB57CB7870F7D5A3, 0x076F2D192BD2720F, 0xB0A71CB77110D77B⟩ := by
  decide +kernel

theorem test_gjump_gd :
    leaves (.gjump .gd) byHand (fun t => t.gd) = some ⟨0x66FBD4BE1DF0A7B5, 0x830C3DDBB4AA3172⟩ := by
  decide +kernel

theorem test_gunif_gf :
    leaves (.gunif .gf) seeded (fun t => (t.res0, t.res1)) = some (0x00E9966C, 0x3F69966C) := by decide +kernel

theorem test_gunif_gd :
    leaves (.gunif .gd) seeded (fun t => (t.res0, t.res1)) = some (0x000A1328D4839AE6, 0x3FD42651A90735CC) := by
  decide +kernel

theorem test_gbound_three_draws : outcome (.gbound .g32) { seeded with opa := 0x80000001 } = some (0x55BBE9B1, 0) := by
  decide +kernel

theorem test_gbound_zero_limit : outcome (.gbound .g64) seeded = some (0, 3) := by decide +kernel

theorem test_grange : outcome (.grange .g32) { seeded with opa := 10, opb := 100 } = some (88, 0) := by decide +kernel

theorem test_grange_empty : outcome (.grange .g32) { seeded with opa := 5, opb := 5 } = some (0, 3) := by
  decide +kernel

theorem test_gadopt : leaves (.gadopt .g32) { byHand with ginited := 0 } (fun t => (t.status, t.ginited)) = some (0, 1) :=
  by decide +kernel

theorem test_gadopt_zero : leaves (.gadopt .gd) State.reset (fun t => (t.status, t.ginited)) = some (3, 0) := by
  decide +kernel

theorem test_capq : leaves (.capq .fast) { ops 0 0 with caps := 1 } (fun t => (t.res0, t.caps)) = some (1, 5) := by
  decide +kernel

theorem test_capq_leaf_gate :
    leaves (.capq .ent) { ops 0 0 with ids := ⟨6, 0x40100000, 0x00040000⟩ } (fun t => (t.res0, t.caps)) =
      some (0, 0x20) := by
  decide +kernel

theorem test_tryfast :
    outcome .tryfast (scripted [⟨false, 5⟩, ⟨true, 0x0123456789ABCDEF⟩] [] []) = some (0x0123456789ABCDEF, 0x20) := by
  decide +kernel

theorem test_tryent_exhausted :
    outcome .tryent (scripted [] [⟨false, 5⟩, ⟨false, 6⟩, ⟨true, 7⟩] []) = some (0, 2) := by
  decide +kernel

theorem test_tryent : outcome .tryent (scripted [] [⟨true, 0⟩] []) = some (0, 0x10) := by decide +kernel

/-- The example of 44_capability_entropy.md R231: no architecture, one sample of `cyc`. -/
theorem test_autoseed_cycle :
    leaves .autoseed
      { State.reset with par := { Params.candidate with archApplicable := false }, cyc := ⟨[1], 0⟩ }
      (fun t => (t.res0, t.status, t.caps)) = some (0x5692161D100B05E5, 0x30, 0x28) := by
  decide +kernel

theorem test_autoseed_fast :
    outcome .autoseed (scripted [⟨true, 9⟩] [⟨false, 1⟩, ⟨false, 1⟩] []) = some (9, 0x20) := by
  decide +kernel

/-! ### Accesses -/

/-- A value of the state a step leaves. -/
def stepLeaves {α : Type} (s : State) (f : State → α) : Option α :=
  match step s with
  | .next t => some (f t)
  | .fault _ => none
  | .refused _ => none

theorem test_step_runs_fetched_word :
    stepLeaves (State.reset.withFetchWord 64 0x120) (fun t => (t.cmd, t.ginited, t.port)) = some (0x120, 2, []) := by
  decide +kernel

theorem test_step_illegal_word :
    stepLeaves (State.reset.withFetchWord 64 0x23) (fun t => (t.cmd, t.status)) = some (0x23, 5) := by
  decide +kernel

theorem test_narrow_register_read :
    stepLeaves { State.reset with port := [.read 0x020 4] } (fun t => t.resp) = some .busError := by
  decide +kernel

theorem test_buffer_read_little_endian :
    stepLeaves { abcdefg with port := [.read 0x1004 2] } (fun t => t.resp) = some (.data 0x6362) := by
  decide +kernel

theorem test_state_word_write :
    stepLeaves { byHand with port := [.write 0x140 8 0xE220A8397B1DCDAF] } (fun t => (t.gf.w0, t.ginited)) =
      some (0x7B1DCDAF, 11) := by
  decide +kernel

/-! ### The statements' hypotheses are met -/

theorem witness_StepRunsTheDecodedCommand :
    (State.reset.withFetchWord 64 0x121).held = false ∧
    (State.reset.withFetchWord 64 0x121).port = .write 0x000 8 0x121 :: [] ∧
      decodeWord 0x121 = some (.gnext .g64) := by
  decide

theorem witness_IllegalWordRaisesIllegal :
    (State.reset.withFetchWord 64 0x330).held = false ∧
    (State.reset.withFetchWord 64 0x330).port = .write 0x000 8 0x330 :: [] ∧ (0x330 : U64) ∉ legalWords := by
  decide

theorem witness_IllFormedTermsMeanIllegal : (Instr.grange .gd).wellFormed = false := by decide

theorem witness_AccessesArePerformedInOrder :
    State.reset.port = [] ∧
    (({ State.reset with held := true, port := [.read 0x008 8] } : State).held = true ∧
      ∀ e ∈ [HostEvent.read 0x008 8], e.resetIds = none) ∧
    ∃ t, (State.reset.withFetchWord 64 0x05).held = false ∧
      (State.reset.withFetchWord 64 0x05).port = .write 0x000 8 0x05 :: [] ∧
      step (State.reset.withFetchWord 64 0x05) = .next t :=
  ⟨rfl, ⟨rfl, by decide⟩, _, rfl, rfl, rfl⟩

/-- A narrow access of a register, a misaligned one, one of a size the buffer does not take, one that leaves the
buffer, and one past the window. -/
theorem witness_RefusedAccessIsABusError :
    ∀ a ∈ [(0x020, 4), (0xFFC, 8), (0x1000, 3), (0x1FFC, 8), (0x2000, 1)],
      ¬ (a.1 < 0x1000 ∧ a.2 = 8 ∧ 8 ∣ a.1) ∧
      ¬ (0x1000 ≤ a.1 ∧ a.1 + a.2 ≤ 0x1000 + State.reset.par.bufBytes ∧
        (a.2 = 1 ∨ a.2 = 2 ∨ a.2 = 4 ∨ a.2 = 8) ∧ a.2 ∣ a.1) := by
  decide

theorem witness_RegisterReadsFollowTheMap :
    ∀ off ∈ [0x000, 0x040, 0x048, 0x0F8, 0x100, 0x168, 0x170, 0xFF8],
      ({ State.reset with port := [.read off 8] } : State).port = .read off 8 :: [] ∧ off < 0x1000 ∧ 8 ∣ off := by
  decide

/-- The last clause at its boundaries: the read-only registers, and the reserved ranges' ends. -/
theorem witness_RegisterWritesStoreOrAreIgnored :
    (∀ off ∈ [0x010, 0x018, 0x040], off < 0x1000 ∧ 8 ∣ off) ∧
    ∀ off ∈ [0x008, 0x020, 0x038, 0x048, 0x0F8, 0x170, 0xFF8], off < 0x1000 ∧ 8 ∣ off ∧ off ≠ 0x000 ∧ off ≠ 0x010 ∧
      off ≠ 0x018 ∧ off ≠ 0x040 ∧ ¬ (0x100 ≤ off ∧ off ≤ 0x168) := by
  decide

theorem witness_StateWordWritesClearGinited :
    ({ byHand with port := [.write 0x100 8 5] } : State).port = .write 0x100 8 5 :: [] ∧
    ({ byHand with port := [.write 0x138 8 5] } : State).port = .write 0x138 8 5 :: [] ∧
    ({ byHand with port := [.write 0x158 8 5] } : State).port = .write 0x158 8 5 :: [] ∧
    ({ byHand with port := [.write 0x168 8 5] } : State).port = .write 0x168 8 5 :: [] := by
  decide

/-- The first byte, and the last word, of the buffer. -/
theorem witness_BufferAccessesAreLittleEndian :
    ∀ a ∈ [(0, 1), (4088, 8), (4094, 2)], (a.2 = 1 ∨ a.2 = 2 ∨ a.2 = 4 ∨ a.2 = 8) ∧ a.2 ∣ a.1 ∧
      a.1 + a.2 ≤ State.reset.par.bufBytes ∧
      ({ State.reset with port := [.write (0x1000 + a.1) a.2 9] } : State).port = .write (0x1000 + a.1) a.2 9 :: [] ∧
      ({ State.reset with port := [.read (0x1000 + a.1) a.2] } : State).port = .read (0x1000 + a.1) a.2 :: [] := by
  decide

/-- A reset of an idle block; one behind two waiting accesses of a held block; one that abandons an `AUTOSEED` after
three draws, the last of them the first of the fast source. -/
theorem witness_ResetEventResetsTheBlock :
    (byHand.held = false ∧ ({ byHand with port := [.reset ⟨6, 0, 0⟩, .read 0x008 8] } : State).port =
      .reset ⟨6, 0, 0⟩ :: [.read 0x008 8]) ∧
    (({ byHand with held := true } : State).held = true ∧
      ∀ x ∈ [HostEvent.read 0x008 8, .write 0x010 8 5], x.resetIds = none) ∧
    let s := scripted [⟨false, 3⟩, ⟨true, 4⟩] [⟨false, 1⟩, ⟨false, 7⟩] []
    s.held = false ∧ decodeWord 0x33 = some .autoseed ∧
      leaves .autoseed s (fun t => (t.ent.used - s.ent.used, t.fast.used - s.fast.used)) = some (2, 2) := by
  decide +kernel

theorem test_abandoned_autoseed_keeps_three_draws :
    stepLeaves { scripted [⟨false, 3⟩, ⟨true, 4⟩] [⟨false, 1⟩, ⟨false, 7⟩] [] with port := [.abandon 0x33 3 ⟨6, 0, 0⟩] }
      (fun t => (t.status, t.cmd, t.ids, t.ent.used, t.fast)) = some (0, 0, ⟨6, 0, 0⟩, 2, ⟨[⟨true, 4⟩], 1⟩) := by
  decide +kernel

theorem test_held_write_waits_for_reset :
    stepLeaves { byHand with held := true, port := [.write 0x010 8 5, .reset ⟨6, 0, 0⟩] }
        (fun t => (t.held, t.opa, t.ginited, t.port)) = some (false, 0, 0, [.write 0x010 8 5]) ∧
    stepLeaves { byHand with held := true, port := [.write 0x010 8 5] } (fun t => (t.held, t.opa, t.port)) =
      some (true, 0, [.write 0x010 8 5]) := by
  decide +kernel

theorem witness_NopWritesOnlyStatus : (Instr.gadopt .gd).wellFormed = true ∧ Instr.gadopt .gd ≠ .nop := by decide

theorem witness_MixersOfAnOperand :
    (ops 1 0).par = Params.candidate ∧ (ops 1 0).opa = 1 ∧ (ops 0xFFFFFFFF00000000 0).opa.setWidth 32 = (0 : U32) ∧
      (ops 0 0).opa = 0 := by
  decide

theorem witness_MixersFixZeroAndAreBijections :
    Params.candidate.mix32C1.getLsbD 0 = true ∧ Params.candidate.mix32C2.getLsbD 0 = true ∧
    Params.candidate.mix64C1.getLsbD 0 = true ∧ Params.candidate.mix64C2.getLsbD 0 = true := by
  decide

theorem witness_CombineFoldsSeedAndNext :
    (ops 1 2).par = Params.candidate ∧ ((ops 0 0).opa = 0 ∧ (ops 0 0).opb = 0) ∧ ((ops 1 2).opa = 1 ∧ (ops 1 2).opb = 2) ∧
      (ops 2 1).opa = 2 ∧ (ops 2 1).opb = 1 ∧
      (ops 0xFFFFFFFFFFFFFFFF 0xFFFFFFFFFFFFFFFF).opa = 0xFFFFFFFFFFFFFFFF ∧
      (ops 0xFFFFFFFFFFFFFFFF 0xFFFFFFFFFFFFFFFF).opb = 0xFFFFFFFFFFFFFFFF := by
  decide

theorem witness_SxnextAddsThenMixes :
    State.reset.par = Params.candidate ∧ State.reset.par.mix64C1.getLsbD 0 = true ∧
      State.reset.par.mix64C2.getLsbD 0 = true ∧ State.reset.sxacc = 0 ∧
      ({ State.reset with sxacc := 0xDAA66D2C7DDF743F } : State).sxacc = 0xDAA66D2C7DDF743F ∧
      ∃ t, exec .sxnext State.reset = .next t :=
  ⟨rfl, by decide, by decide, rfl, rfl, _, rfl⟩

theorem witness_ExpanderOutputsFollowTheAccumulator :
    ({ State.reset with port := List.replicate (1 + 1) (.write 0x000 8 0x05) } : State).port =
      List.replicate (1 + 1) (.write 0x000 8 0x05) ∧ Params.candidate.sexpInc.getLsbD 0 = true := by
  decide

theorem witness_CrcWidths : 8 ≤ 8 ∧ 4 ≤ 4 := by decide

theorem witness_CrcAvailable :
    State.reset.capAvailable .crc = true ∧ bare.capAvailable .crc = false ∧
      Instr.hash64 ∈ [Instr.crc8, .crc16, .crc32, .crc64, .hash32, .hash64] ∧
      Instr.crc64 ∈ [Instr.crc8, .crc16, .crc32, .crc64] := by
  decide

/-- Offsets and lengths on both sides of the check: at the end of the buffer, past it, and one byte too long. -/
theorem witness_HashChecksItsRange :
    ((ops 4097 0).opa.toNat > State.reset.par.bufBytes ∧ (ops 4097 0).capAvailable .crc = true) ∧
    ((ops 4090 7).opb.toNat > State.reset.par.bufBytes - (ops 4090 7).opa.toNat ∧
      (ops 4090 7).capAvailable .crc = true) ∧
    ((ops 4089 7).opa.toNat ≤ State.reset.par.bufBytes ∧
      (ops 4089 7).opb.toNat ≤ State.reset.par.bufBytes - (ops 4089 7).opa.toNat ∧
      (ops 4089 7).capAvailable .crc = true) ∧
    (ops 4096 0).opb = 0 ∧ (ops 4096 0).opa.toNat ≤ State.reset.par.bufBytes ∧
      (ops 4096 0).capAvailable .crc = true := by
  decide

theorem witness_HashesEqualBytewiseDivision :
    abcdefg.capAvailable .crc = true ∧ abcdefg.opa.toNat ≤ abcdefg.par.bufBytes ∧
      abcdefg.opb.toNat ≤ abcdefg.par.bufBytes - abcdefg.opa.toNat := by
  decide

/-- Two states that differ outside the range only. -/
theorem witness_HashReadsOnlyItsRange :
    let t : State := { abcdefg with buf := (2, 9) :: abcdefg.buf, res0 := 4, ginited := 1 }
    (abcdefg.par = t.par ∧ abcdefg.opa = t.opa ∧ abcdefg.opb = t.opb ∧
      ∀ j, j < abcdefg.opb.toNat → abcdefg.bufByte (abcdefg.opa.toNat + j) = t.bufByte (abcdefg.opa.toNat + j)) ∧
    leaves .hash32 abcdefg (fun u => codeField u.status) = some 0 ∧
    leaves .hash32 t (fun u => codeField u.status) = some 0 := by
  refine ⟨⟨rfl, rfl, rfl, ?_⟩, by decide +kernel, by decide +kernel⟩
  decide +kernel

theorem witness_GinitFillsTheFile : (ops 0 0).par = Params.candidate ∧ (ops 0 0).opa = 0 := by decide

theorem witness_GinitNeverMakesAZeroFile_guard :
    State.reset.par.phi32 ≠ 0 ∧ State.reset.par.phi64 ≠ 0 ∧ ∃ t, exec (.ginit .gd) State.reset = .next t :=
  ⟨by decide, by decide, _, rfl⟩

/-- With multipliers 1 the mixer is three exclusive-or shifts, which lose nothing. -/
theorem witness_GinitNeverMakesAZeroFile_bijective :
    Function.Bijective (mix64 { Params.candidate with mix64C1 := 1, mix64C2 := 1 }) ∧ Params.candidate.sexpInc ≠ 0 := by
  refine ⟨Finite.injective_iff_bijective.mp fun x y h => ?_, by decide⟩
  have inj : ∀ (n : Nat) (a b : U64), 0 < n → xorShiftRight a n = xorShiftRight b n → a = b :=
    fun n a b hn e => xorShiftRight_injective hn e
  have one : ∀ a : U64, a * 1 = a := mul_one
  simp only [mix64, one] at h
  exact inj 30 x y (by decide) (inj 27 _ _ (by decide) (inj 31 _ _ (by decide) h))

theorem witness_UninitialisedGeneratorRaisesNoinit :
    Instr.gbound .g32 ∈ [Instr.gnext .g32, .gjump .g32, .gunif .g32, .gbound .g32, .grange .g32] ∧
      (Instr.gbound .g32).wellFormed = true ∧ isInited State.reset.ginited .g32 = false ∧
    Instr.gunif .gd ∈ [Instr.gnext .gd, .gjump .gd, .gunif .gd, .gbound .gd, .grange .gd] ∧
      (Instr.gunif .gd).wellFormed = true ∧ isInited State.reset.ginited .gd = false := by
  decide

/-- For `GNEXT`, `GJUMP`, `GUNIF`. -/
theorem witness_InitialisedGenerators :
    ∀ v ∈ [Variant.g32, .g64, .gf, .gd], isInited byHand.ginited v = true ∧ isInited State.reset.ginited v = false := by
  decide

theorem witness_LinearUpdatesAreBijections :
    (0 < 1 ∧ 1 < 2 ∧ 0 < 1 ∧ 1 < 2) ∧ (0 < Params.candidate.gdRotA ∧ Params.candidate.gdRotA < 64 ∧
      0 < Params.candidate.gdShift ∧ Params.candidate.gdShift < 64 ∧ 0 < Params.candidate.gdRotB ∧
      Params.candidate.gdRotB < 64) := by
  decide

theorem witness_UniformPatternsAreExact :
    ((1 : U32) ≠ 0 ∧ (1 : U32).toNat < 2 ^ 24) ∧ ((0xFFFFFF : U32) ≠ 0 ∧ (0xFFFFFF : U32).toNat < 2 ^ 24) ∧
    ((1 : U64) ≠ 0 ∧ (1 : U64).toNat < 2 ^ 53) ∧ (0x1FFFFFFFFFFFFF : U64) ≠ 0 ∧
      (0x1FFFFFFFFFFFFF : U64).toNat < 2 ^ 53 := by
  decide

theorem witness_GadoptChecksTheNonzeroInvariant :
    (State.reset.g32 = ⟨0, 0, 0, 0⟩ ∧ State.reset.g64 = ⟨0, 0, 0, 0⟩ ∧ State.reset.gf = ⟨0, 0, 0, 0⟩ ∧
      State.reset.gd = ⟨0, 0⟩) ∧
    byHand.g32 ≠ ⟨0, 0, 0, 0⟩ ∧ byHand.g64 ≠ ⟨0, 0, 0, 0⟩ ∧ byHand.gf ≠ ⟨0, 0, 0, 0⟩ ∧ byHand.gd ≠ ⟨0, 0⟩ := by
  decide

/-- A command whose value is known goes on. -/
theorem next_of_leaves {α : Type} {i : Instr} {s : State} {f : State → α} {x : α} (h : leaves i s f = some x) :
    ∃ t, exec i s = .next t ∧ f t = x := by
  unfold leaves at h
  split at h
  · rename_i t e; exact ⟨t, e, Option.some.inj h⟩
  · cases h
  · cases h

/-- G64 in the state from which the limit `2^63 + 1` rejects three draws. -/
def unlucky64 : State :=
  { seeded with g64 := ⟨0x42CCF76E969D9EDD, 0x267E53E3C2B94C43, 0x7A748DF3423CA157, 0xB6ED46C3EF32A7CE⟩ }

/-- The first draw accepted, two draws of G32 rejected (95_test_vectors.md section 2.10), three of G64 rejected. -/
theorem witness_GboundDeliversTheFirstAcceptedDraw :
    (isInited seeded.ginited .g32 = true ∧ (3 : U32) ≠ 0 ∧ ¬ Rejected (3 : U32) (seeded.drawG32 0)) ∧
    ((0x80000001 : U32) ≠ 0 ∧ (∀ j, j < 2 → Rejected (0x80000001 : U32) (seeded.drawG32 j)) ∧
      ¬ Rejected (0x80000001 : U32) (seeded.drawG32 2)) ∧
    (isInited unlucky64.ginited .g64 = true ∧ (0x8000000000000001 : U64) ≠ 0 ∧
      (∀ j, j < 3 → Rejected (0x8000000000000001 : U64) (unlucky64.drawG64 j)) ∧
      ¬ Rejected (0x8000000000000001 : U64) (unlucky64.drawG64 3)) := by
  unfold Rejected
  decide +kernel

/-- The same draws as the ranges `[10, 0x8000000B)` and `[5, 2^63 + 6)` see them. -/
theorem witness_GrangeAddsTheFirstAcceptedDraw :
    (isInited seeded.ginited .g32 = true ∧ (10 : U32).toNat < (0x8000000B : U32).toNat ∧
      (∀ j, j < 2 → Rejected (0x8000000B - 10 : U32) (seeded.drawG32 j)) ∧
      ¬ Rejected (0x8000000B - 10 : U32) (seeded.drawG32 2)) ∧
    (isInited unlucky64.ginited .g64 = true ∧ (5 : U64).toNat < (0x8000000000000006 : U64).toNat ∧
      (∀ j, j < 3 → Rejected (0x8000000000000006 - 5 : U64) (unlucky64.drawG64 j)) ∧
      ¬ Rejected (0x8000000000000006 - 5 : U64) (unlucky64.drawG64 3)) := by
  unfold Rejected
  decide +kernel

/-- A limit of 0 under ignored high bits, and `max = min`. -/
theorem witness_SamplerPreconditionsFailFast :
    isInited seeded.ginited .g32 = true ∧ isInited seeded.ginited .g64 = true ∧
    (0xFFFFFFFF00000000 : U64).setWidth 32 = (0 : U32) ∧ (0 : U64) = 0 ∧
    ((5 : U64).setWidth 32 : U32).toNat ≤ ((5 : U64).setWidth 32 : U32).toNat ∧ (5 : U64).toNat ≤ (5 : U64).toNat := by
  decide

/-- All-zero files that a state no run reaches calls initialised: they deliver 0 for ever, which a limit or a range
width of `2^31 + 1` rejects. -/
def stuck (a b : U64) : State := { State.reset with ginited := 3, opa := a, opb := b }

theorem stuck_draws (a b : U64) (n : Nat) : (stuck a b).drawG32 n = 0 ∧ (stuck a b).drawG64 n = 0 := by
  have h : (stuck a b).fileG32After n = ⟨0, 0, 0, 0⟩ :=
    Function.iterate_fixed (f := fun f => (stepG32 Params.candidate f).2) (x := (⟨0, 0, 0, 0⟩ : Quad 32))
      (by decide +kernel) n
  have k : (stuck a b).fileG64After n = ⟨0, 0, 0, 0⟩ :=
    Function.iterate_fixed (f := fun f => (stepG64 Params.candidate f).2) (x := (⟨0, 0, 0, 0⟩ : Quad 64))
      (by decide +kernel) n
  have z : (stepG32 Params.candidate ⟨0, 0, 0, 0⟩).1 = 0 ∧ (stepG64 Params.candidate ⟨0, 0, 0, 0⟩).1 = 0 := by
    decide +kernel
  constructor
  · rw [State.drawG32, h]; exact z.1
  · rw [State.drawG64, k]; exact z.2

/-- Each of the four clauses' right-hand sides holds of a state. -/
theorem witness_SamplerStopsOnlyWhenNoDrawIsAccepted :
    (let s := stuck 0x80000001 0
     isInited s.ginited .g32 = true ∧ (s.opa.setWidth 32 : U32) ≠ 0 ∧
      ∀ n, Rejected (s.opa.setWidth 32 : U32) (s.drawG32 n)) ∧
    (let s := stuck 0x80000001 0
     isInited s.ginited .g64 = true ∧ s.opa ≠ 0 ∧ ∀ n, Rejected s.opa (s.drawG64 n)) ∧
    (let s := stuck 5 0x80000006
     isInited s.ginited .g32 = true ∧ (s.opa.setWidth 32 : U32).toNat < (s.opb.setWidth 32 : U32).toNat ∧
      ∀ n, Rejected (s.opb.setWidth 32 - s.opa.setWidth 32 : U32) (s.drawG32 n)) ∧
    (let s := stuck 5 0x80000006
     isInited s.ginited .g64 = true ∧ s.opa.toNat < s.opb.toNat ∧ ∀ n, Rejected (s.opb - s.opa) (s.drawG64 n)) := by
  refine ⟨⟨by decide, by decide, fun n => ?_⟩, ⟨by decide, by decide, fun n => ?_⟩,
    ⟨by decide, by decide, fun n => ?_⟩, ⟨by decide, by decide, fun n => ?_⟩⟩ <;>
    simp only [(stuck_draws _ _ n).1, (stuck_draws _ _ n).2] <;> unfold Rejected <;> decide +kernel

/-- `GBOUND` on such a file never ends, so its `CMD` write is held, and the access behind it waits. -/
theorem witness_OnlyTheSamplerCanHoldTheBlock :
    exec (.gbound .g32) (stuck 0x80000001 0) = .fault .samplerDiverges ∧
    let s : State := { stuck 0x80000001 0 with port := [.write 0x000 8 0x024, .read 0x008 8] }
    s.held = false ∧ ∃ t, step s = .next t ∧ t.held = true ∧ t.port = [.read 0x008 8] := by
  have d : stepG32 Params.candidate ⟨0, 0, 0, 0⟩ = (0, ⟨0, 0, 0, 0⟩) := by decide +kernel
  have r : ∀ n, redraw (stepG32 Params.candidate) (0x80000001 : U32) n 0 ⟨0, 0, 0, 0⟩ = none := by
    intro n
    induction n with
    | zero => decide +kernel
    | succ n ih => rw [redraw_reject _ (by decide +kernel), d]; exact ih
  have b : bounded (stepG32 Params.candidate) (0x80000001 : U32) ⟨0, 0, 0, 0⟩ = none := by
    have l : loHalf 32 (wideMul (0 : U32) 0x80000001) < (0x80000001 : U32).toNat := by decide
    rw [bounded, d, if_pos l]; exact r _
  have g : ∀ u : State, isInited u.ginited .g32 = true → u.opaLow 32 = 0x80000001 → u.par = Params.candidate →
      u.g32 = ⟨0, 0, 0, 0⟩ → exec (.gbound .g32) u = .fault .samplerDiverges := by
    intro u h1 h2 h3 h4
    have n : ¬ (0x80000001 : U32) = 0 := by decide
    simp only [exec, execGbound, needsInit, h1, if_true, h2, State.sampleG32, h3, h4, b, if_neg n]
  have hd : decodeWord 0x024 = some (.gbound .g32) := by decide
  have e : ∀ u : State, isInited u.ginited .g32 = true → u.opaLow 32 = 0x80000001 → u.par = Params.candidate →
      u.g32 = ⟨0, 0, 0, 0⟩ → commandStep 0x024 u = .next u.hold := by
    intro u h1 h2 h3 h4
    have k : runCommand 0x024 u = .fault .samplerDiverges := by
      rw [runCommand, hd]; exact g u h1 h2 h3 h4
    rw [commandStep, k]
  refine ⟨g _ (by decide) (by decide) rfl rfl, rfl,
    State.hold { stuck 0x80000001 0 with port := [.read 0x008 8], cmd := 0x024, resp := .accepted }, ?_, rfl, rfl⟩
  rw [step_cmd rfl rfl]
  exact e _ (by decide) (by decide) rfl rfl

theorem witness_SamplesStayInRange :
    (∃ t, exec (.gbound .g32) { seeded with opa := 0x80000001 } = .next t ∧ codeField t.status = 0) ∧
    (∃ t, exec (.gbound .g64) { seeded with opa := 1 } = .next t ∧ codeField t.status = 0) ∧
    (∃ t, exec (.grange .g32) { seeded with opa := 10, opb := 11 } = .next t ∧ codeField t.status = 0) ∧
    ∃ t, exec (.grange .g64) { seeded with opa := 10, opb := 0xFFFFFFFFFFFFFFFF } = .next t ∧ codeField t.status = 0 :=
  ⟨next_of_leaves (by decide +kernel), next_of_leaves (by decide +kernel), next_of_leaves (by decide +kernel),
    next_of_leaves (by decide +kernel)⟩

theorem witness_EveryResultIsAcceptedEquallyOften : (2 : BitVec 8).toNat < (3 : BitVec 8).toNat := by decide

theorem witness_ProbeReadsTheFeatureBits :
    Params.candidate.archApplicable = true ∧
      ({ Params.candidate with archApplicable := false } : Params).archApplicable = false := by
  decide

/-- `CAPS` with one cell `unsupported` and two `supported`, and the reset value with all `unknown`. -/
theorem witness_CapabilityIsProbedOnceThenCached :
    capCell State.reset.caps .crc = 0 ∧ capCell 0x16 .crc ≠ 0 ∧ capCell 0x16 .ent ≠ 0 ∧ Feature.fast ≠ .crc := by
  decide

theorem witness_CapqDeliversTheAnswer :
    State.reset.par.archApplicable = true ∧ State.reset.ids = ⟨0x0000000D, 0x40100000, 0x00040000⟩ ∧
      State.reset.caps = 0 ∧ ({ State.reset with caps := 0x01 } : State).caps = 0x01 ∧
      ({ State.reset with caps := 0x05, ids := ⟨6, 0x40100000, 0x00040000⟩ } : State).caps = 0x05 := by
  decide

theorem witness_CachedCapabilitiesAreFrozen :
    let s : State := { State.reset with caps := 0x01, port := [.write 0x030 8 0] }
    (∃ t, step s = .next t) ∧ s.held = false ∧ (∀ e rest, s.port = e :: rest → e.resetIds = none) ∧
      (∀ e ∈ ({ s with held := true } : State).port, e.resetIds = none) ∧ capCell s.caps .crc ≠ 0 := by
  refine ⟨⟨_, rfl⟩, rfl, fun e rest h => ?_, by decide, by decide⟩
  cases h; rfl

/-- The success on the last permitted attempt, and every attempt failed. -/
theorem witness_AcquireMakesBoundedAttempts :
    let good := (scripted [⟨false, 1⟩, ⟨true, 2⟩] [] []).fast
    let bad := (scripted [⟨false, 1⟩, ⟨false, 2⟩] [] []).fast
    (1 < 2 ∧ (∀ j, j < 1 → (good.answer Config.fastDraw j).ok = false) ∧ (good.answer Config.fastDraw 1).ok = true) ∧
      ∀ j, j < 2 → (bad.answer Config.fastDraw j).ok = false := by
  decide +kernel

/-- Unavailable; delivered by the last of 255 attempts; 255 attempts failed. -/
theorem witness_TryfastOutcomes :
    let s : State := { State.reset with fast := ⟨List.replicate 254 ⟨false, 1⟩ ++ [⟨true, 7⟩], 0⟩ }
    let u : State := { State.reset with fast := ⟨List.replicate 255 ⟨false, 1⟩, 0⟩ }
    bare.capAvailable .fast = false ∧
    (s.capAvailable .fast = true ∧ 254 < s.par.fastAttempts ∧
      (∀ j, j < 254 → (s.fast.answer Config.fastDraw j).ok = false) ∧ (s.fast.answer Config.fastDraw 254).ok = true) ∧
    u.capAvailable .fast = true ∧ ∀ j, j < u.par.fastAttempts → (u.fast.answer Config.fastDraw j).ok = false := by
  decide +kernel

theorem witness_TryentOutcomes :
    let s := scripted [] [⟨false, 1⟩, ⟨true, 7⟩] []
    let u := scripted [] [⟨false, 1⟩, ⟨false, 7⟩] []
    bare.capAvailable .ent = false ∧
    (s.capAvailable .ent = true ∧ 1 < s.par.entAttempts ∧
      (∀ j, j < 1 → (s.ent.answer Config.entDraw j).ok = false) ∧ (s.ent.answer Config.entDraw 1).ok = true) ∧
    u.capAvailable .ent = true ∧ ∀ j, j < u.par.entAttempts → (u.ent.answer Config.entDraw j).ok = false := by
  decide +kernel

theorem witness_AutoseedFollowsTheChain_entropy :
    let s := scripted [] [⟨false, 1⟩, ⟨true, 7⟩] []
    s.capAvailable .ent = true ∧ 1 < s.par.entAttempts ∧
      (∀ j, j < 1 → (s.ent.answer Config.entDraw j).ok = false) ∧ (s.ent.answer Config.entDraw 1).ok = true := by
  decide +kernel

theorem witness_AutoseedFollowsTheChain_fast :
    let s := scripted [⟨false, 3⟩, ⟨true, 4⟩] [⟨false, 1⟩, ⟨false, 7⟩] []
    let u : State := { s.afterCap .ent with ent := s.ent.after s.par.entAttempts }
    (s.capAvailable .ent = true ∧ ∀ j, j < s.par.entAttempts → (s.ent.answer Config.entDraw j).ok = false) ∧
    u.capAvailable .fast = true ∧ 1 < u.par.fastAttempts ∧
      (∀ j, j < 1 → (u.fast.answer Config.fastDraw j).ok = false) ∧ (u.fast.answer Config.fastDraw 1).ok = true := by
  decide +kernel

/-- Both sources exhausted; and both unsupported. -/
theorem witness_AutoseedFollowsTheChain_cycle :
    let s := scripted [⟨false, 3⟩, ⟨false, 4⟩] [⟨false, 1⟩, ⟨false, 7⟩] [5]
    let u : State := { s.afterCap .ent with ent := s.ent.after s.par.entAttempts }
    ((s.capAvailable .ent = true ∧ ∀ j, j < s.par.entAttempts → (s.ent.answer Config.entDraw j).ok = false) ∧
      u.capAvailable .fast = true ∧ ∀ j, j < u.par.fastAttempts → (u.fast.answer Config.fastDraw j).ok = false) ∧
    bare.capAvailable .ent = false ∧ (bare.afterCap .ent).capAvailable .fast = false := by
  decide +kernel

/-- The invariant holds of a state other than reset too, with a cell cached and a failure reported. -/
theorem witness_EveryStepKeepsTheInvariant :
    let s : State := { byHand with caps := 0x05, status := 3, buf := [(4095, 1)], port := [.write 0x1000 8 5] }
    s.Inv ∧ ∃ t, step s = .next t := by
  refine ⟨⟨by decide, by decide, by decide, by decide, by decide, by decide, ?_, ?_, ?_, by decide⟩, _, rfl⟩ <;>
    intro f <;> cases f <;> decide

theorem witness_EveryStepKeepsGeneratorsNonzero :
    let s : State := { byHand with port := [.write 0x000 8 (encode (.gjump .g32))] }
    s.par.wf = true ∧ s.GeneratorsNonzero ∧
      (∀ v rest, s.port = .write 0x000 8 (encode (.gjump v)) :: rest → isInited s.ginited v = true →
        (s.jumpFile v).fileZero v = false) ∧
      ∃ t, step s = .next t := by
  refine ⟨by decide, fun v _ => by cases v <;> decide, fun v rest _ _ => ?_, ?_⟩
  · cases v <;> decide +kernel
  · obtain ⟨t, h, _⟩ := next_of_leaves (i := .gjump .g32) (f := fun _ => ())
      (s := { byHand with cmd := encode (.gjump .g32), resp := .accepted }) (x := ()) (by decide +kernel)
    have d : decodeWord (encode (.gjump .g32)) = some (.gjump .g32) := by decide
    have e : runCommand (encode (.gjump .g32)) { byHand with cmd := encode (.gjump .g32), resp := .accepted } =
        .next t := by rw [runCommand, d]; exact h
    exact ⟨t, by rw [step_cmd rfl rfl, commandStep]; exact e ▸ rfl⟩

theorem witness_CommandsChangeOnlyTheirOwnState :
    (∃ t, exec (.gunif .gd) byHand = .next t) ∧ (Instr.mix32 ≠ .sxnext ∧ Instr.mix32 ≠ .autoseed) ∧
      Instr.mix32 ∉ [Instr.tryfast, .autoseed] := by
  obtain ⟨t, h, _⟩ := next_of_leaves (i := .gunif .gd) (s := byHand) (f := fun _ => ()) (x := ()) (by decide +kernel)
  exact ⟨⟨t, h⟩, by decide, by decide⟩

theorem witness_FailuresChangeNothingElse :
    ∃ t, exec .tryent (scripted [] [⟨false, 5⟩, ⟨false, 6⟩] []) = .next t ∧ codeField t.status ≠ 0 := by
  obtain ⟨t, h, e⟩ := next_of_leaves (i := .tryent) (s := scripted [] [⟨false, 5⟩, ⟨false, 6⟩] [])
    (f := fun t => codeField t.status) (x := 2) (by decide +kernel)
  exact ⟨t, h, by rw [e]; decide⟩

theorem witness_OnlyTheHashesReadTheBuffer :
    Instr.crc64 ≠ .hash32 ∧ Instr.crc64 ≠ .hash64 ∧ ∃ t, exec .crc64 State.reset = .next t :=
  ⟨by decide, by decide, _, rfl⟩

end Sys2Proof.Tests
end

section
/-!
PROOF. What commands do to the three sources, and what the reset input leaves of a command it abandons
(44_capability_entropy.md R231, 70_reset_and_hazards.md R300).
-/

namespace Sys2Proof.Machine

open Sys2Proof

/-! ### A feed and the same feed after some draws -/

@[simp] theorem Feed.after_zero {α : Type} (q : Feed α) : q.after 0 = q := rfl

@[simp] theorem Feed.after_used {α : Type} (q : Feed α) (n : Nat) : (q.after n).used = q.used + n := rfl

/-- `r` is the feed `q` after some number of draws. -/
def Feed.MovesTo {α : Type} (q r : Feed α) : Prop := ∃ n, r = q.after n

@[simp] theorem Feed.MovesTo.refl {α : Type} (q : Feed α) : q.MovesTo q := ⟨0, rfl⟩

/-- The number of the draws is read off the two counts. -/
theorem Feed.MovesTo.eq_after {α : Type} {q r : Feed α} (h : q.MovesTo r) : r = q.after (r.used - q.used) := by
  obtain ⟨n, rfl⟩ := h
  simp

theorem Feed.MovesTo.used_le {α : Type} {q r : Feed α} (h : q.MovesTo r) : q.used ≤ r.used := by
  obtain ⟨n, rfl⟩ := h
  simp

theorem Feed.MovesTo.trans {α : Type} {p q r : Feed α} (h : p.MovesTo q) (h' : q.MovesTo r) : p.MovesTo r := by
  obtain ⟨m, rfl⟩ := h
  obtain ⟨n, rfl⟩ := h'
  exact ⟨m + n, Feed.after_after p m n⟩

theorem Feed.movesTo_draw {α : Type} (free : Nat → α) (q : Feed α) : q.MovesTo (q.draw free).2 :=
  ⟨1, by rw [Feed.draw_eq]⟩

theorem movesTo_acquire (free : Nat → Attempt) (n : Nat) (q : Feed Attempt) : q.MovesTo (acquire free n q).2 :=
  let ⟨k, _, e⟩ := acquire_moves_feed free n q
  ⟨k, e⟩

/-! ### The commands that draw from no source -/

/-- The three sources of `t` are those of `s`. -/
structure State.SameSources (s t : State) : Prop where
  ent : t.ent = s.ent
  fast : t.fast = s.fast
  cyc : t.cyc = s.cyc

/-- A command on `s` that ends as `o` has drawn from no source. -/
def State.KeepsSources (s : State) (o : Host.Outcome State Fault Refusal) : Prop := ∀ t, o = .next t → s.SameSources t

theorem State.SameSources.keepsSources {s t : State} (h : s.SameSources t) : s.KeepsSources (.next t) := by
  rintro _ ⟨⟩
  exact h

theorem raise_keepsSources (s : State) (c : Code) : s.KeepsSources (.next (s.raise c)) :=
  State.SameSources.keepsSources ⟨rfl, rfl, rfl⟩

theorem keepsSources_ite {s : State} {p : Prop} [Decidable p] {o o' : Host.Outcome State Fault Refusal}
    (h : s.KeepsSources o) (h' : s.KeepsSources o') : s.KeepsSources (if p then o else o') := by
  split
  · exact h
  · exact h'

theorem gatedByCrc_sameSources {s : State} {body : State → State}
    (hb : (s.afterCap .crc).SameSources (body (s.afterCap .crc))) : s.SameSources (gatedByCrc s body) := by
  obtain ⟨he, hf, hc⟩ := hb
  rcases gatedByCrc_cases s body with ⟨_, h⟩ | ⟨_, h⟩ <;> rw [h]
  · exact ⟨by simp [he], by simp [hf], by simp [hc]⟩
  · exact ⟨by simp, by simp, by simp⟩

theorem crcCommand_sameSources (n : Nat) (s : State) : s.SameSources (crcCommand n s) :=
  gatedByCrc_sameSources ⟨rfl, rfl, rfl⟩

theorem hashCommand_sameSources {w : Nat} (h : State → Nat → Nat → BitVec w) (s : State) :
    s.SameSources (hashCommand h s) := by
  refine gatedByCrc_sameSources ?_
  split <;> exact ⟨rfl, rfl, rfl⟩

theorem needsInit_keepsSources {v : Variant} {s : State} {body : State → Host.Outcome State Fault Refusal}
    (hb : s.KeepsSources (body s)) : s.KeepsSources (needsInit v s body) := by
  rcases needsInit_cases v s body with ⟨_, e⟩ | ⟨_, e⟩ <;> rw [e]
  · exact hb
  · exact raise_keepsSources s .noinit

theorem sampleG32_keepsSources (min limit : U32) (s : State) : s.KeepsSources (s.sampleG32 min limit) := by
  intro t h
  obtain ⟨r, f, _, rfl⟩ := State.sampleG32_next h
  exact ⟨rfl, rfl, rfl⟩

theorem sampleG64_keepsSources (min limit : U64) (s : State) : s.KeepsSources (s.sampleG64 min limit) := by
  intro t h
  obtain ⟨r, f, _, rfl⟩ := State.sampleG64_next h
  exact ⟨rfl, rfl, rfl⟩

theorem execGnext_keepsSources (v : Variant) (s : State) : s.KeepsSources (execGnext v s) :=
  needsInit_keepsSources (State.SameSources.keepsSources ⟨by simp, by simp, by simp⟩)

theorem execGjump_keepsSources (v : Variant) (s : State) : s.KeepsSources (execGjump v s) :=
  needsInit_keepsSources (State.SameSources.keepsSources ⟨by simp, by simp, by simp⟩)

theorem execGunif_keepsSources (v : Variant) (s : State) : s.KeepsSources (execGunif v s) := by
  cases v with
  | g32 | g64 => exact raise_keepsSources s .illegal
  | gf | gd =>
    simp only [execGunif]
    exact needsInit_keepsSources (State.SameSources.keepsSources ⟨rfl, rfl, rfl⟩)

theorem execGbound_keepsSources (v : Variant) (s : State) : s.KeepsSources (execGbound v s) := by
  cases v with
  | g32 =>
    simp only [execGbound]
    exact needsInit_keepsSources (keepsSources_ite (raise_keepsSources s _) (sampleG32_keepsSources _ _ s))
  | g64 =>
    simp only [execGbound]
    exact needsInit_keepsSources (keepsSources_ite (raise_keepsSources s _) (sampleG64_keepsSources _ _ s))
  | gf | gd => exact raise_keepsSources s .illegal

theorem execGrange_keepsSources (v : Variant) (s : State) : s.KeepsSources (execGrange v s) := by
  cases v with
  | g32 =>
    simp only [execGrange]
    exact needsInit_keepsSources (keepsSources_ite (raise_keepsSources s _) (sampleG32_keepsSources _ _ s))
  | g64 =>
    simp only [execGrange]
    exact needsInit_keepsSources (keepsSources_ite (raise_keepsSources s _) (sampleG64_keepsSources _ _ s))
  | gf | gd => exact raise_keepsSources s .illegal

theorem execGadopt_keepsSources (v : Variant) (s : State) : s.KeepsSources (execGadopt v s) := by
  unfold execGadopt
  split <;> exact State.SameSources.keepsSources ⟨rfl, rfl, rfl⟩

/-- Only `TRYFAST`, `TRYENT` and `AUTOSEED` draw from a source (44_capability_entropy.md R225, R226, R231). -/
theorem exec_keepsSources {i : Instr} (hi : i ∉ [Instr.tryfast, .tryent, .autoseed]) (s : State) :
    s.KeepsSources (exec i s) := by
  cases i with
  | nop | mix32 | mix64 | comb32 | comb64 | sxnext => exact State.SameSources.keepsSources ⟨rfl, rfl, rfl⟩
  | crc8 | crc16 | crc32 | crc64 => exact (crcCommand_sameSources _ s).keepsSources
  | hash32 | hash64 => exact (hashCommand_sameSources _ s).keepsSources
  | ginit v => exact State.SameSources.keepsSources ⟨by simp, by simp, by simp⟩
  | gnext v => exact execGnext_keepsSources v s
  | gjump v => exact execGjump_keepsSources v s
  | gunif v => exact execGunif_keepsSources v s
  | gbound v => exact execGbound_keepsSources v s
  | grange v => exact execGrange_keepsSources v s
  | gadopt v => exact execGadopt_keepsSources v s
  | capq f => exact State.SameSources.keepsSources ⟨by simp, by simp, by simp⟩
  | tryfast | tryent | autoseed => simp at hi

/-! ### Every command only draws -/

/-- Each source of `t` is that of `s` after some draws. -/
structure State.DrawsTo (s t : State) : Prop where
  ent : s.ent.MovesTo t.ent
  fast : s.fast.MovesTo t.fast
  cyc : s.cyc.MovesTo t.cyc

theorem State.SameSources.drawsTo {s t : State} (h : s.SameSources t) : s.DrawsTo t :=
  ⟨⟨0, h.ent⟩, ⟨0, h.fast⟩, ⟨0, h.cyc⟩⟩

/-- The evaluation of `cap` draws nothing. -/
theorem State.DrawsTo.of_afterCap {f : Feature} {s t : State} (h : (s.afterCap f).DrawsTo t) : s.DrawsTo t :=
  ⟨by simpa using h.ent, by simpa using h.fast, by simpa using h.cyc⟩

theorem State.tryFast_drawsTo (s : State) : s.DrawsTo s.tryFast := by
  rcases s.tryFast_cases with ⟨d, _, h⟩ | ⟨_, h⟩ <;> rw [h] <;>
    exact ⟨.refl _, movesTo_acquire _ _ _, .refl _⟩

theorem State.tryEnt_drawsTo (s : State) : s.DrawsTo s.tryEnt := by
  rcases s.tryEnt_cases with ⟨d, _, h⟩ | ⟨_, h⟩ <;> rw [h] <;>
    exact ⟨movesTo_acquire _ _ _, .refl _, .refl _⟩

theorem State.seedFromCycle_drawsTo (s : State) : s.DrawsTo s.seedFromCycle :=
  ⟨.refl _, .refl _, Feed.movesTo_draw _ _⟩

theorem State.seedFromFast_drawsTo (s : State) : s.DrawsTo s.seedFromFast := by
  refine State.DrawsTo.of_afterCap (f := .fast) ?_
  rcases s.seedFromFast_cases with ⟨_, d, _, h⟩ | ⟨_, _, h⟩ | ⟨_, h⟩ <;> rw [h]
  · exact ⟨.refl _, movesTo_acquire _ _ _, .refl _⟩
  · exact ⟨.refl _, movesTo_acquire _ _ _, Feed.movesTo_draw _ _⟩
  · exact State.seedFromCycle_drawsTo _

theorem State.seedFromEnt_drawsTo (s : State) : s.DrawsTo s.seedFromEnt := by
  refine State.DrawsTo.of_afterCap (f := .ent) ?_
  rcases s.seedFromEnt_cases with ⟨_, d, _, h⟩ | ⟨_, ha, h⟩ | ⟨_, h⟩ <;> rw [h]
  · exact ⟨movesTo_acquire _ _ _, .refl _, .refl _⟩
  · have hd := State.seedFromFast_drawsTo { s.afterCap .ent with ent := (s.afterCap .ent).acquireEnt.2 }
    exact ⟨(movesTo_acquire _ _ _).trans hd.ent, hd.fast, hd.cyc⟩
  · exact State.seedFromFast_drawsTo _

theorem execTryfast_drawsTo {s t : State} (h : execTryfast s = .next t) : s.DrawsTo t := by
  cases h
  refine State.DrawsTo.of_afterCap (f := .fast) ?_
  split
  · exact State.tryFast_drawsTo _
  · exact ⟨.refl _, .refl _, .refl _⟩

theorem execTryent_drawsTo {s t : State} (h : execTryent s = .next t) : s.DrawsTo t := by
  cases h
  refine State.DrawsTo.of_afterCap (f := .ent) ?_
  split
  · exact State.tryEnt_drawsTo _
  · exact ⟨.refl _, .refl _, .refl _⟩

/-- A command does nothing to a source but draw from it (10_state.md R41 to R43). -/
theorem exec_drawsTo {i : Instr} {s t : State} (h : exec i s = .next t) : s.DrawsTo t := by
  by_cases hi : i ∈ [Instr.tryfast, .tryent, .autoseed]
  · simp only [List.mem_cons, List.not_mem_nil, or_false] at hi
    rcases hi with rfl | rfl | rfl
    · exact execTryfast_drawsTo h
    · exact execTryent_drawsTo h
    · cases h; exact State.seedFromEnt_drawsTo s
  · exact (exec_keepsSources hi s t h).drawsTo

/-! ### A command that a reset abandons -/

/-- `x`, `y`, `z` draws on the entropy source, the fast source and `cyc` are the first `n` of those by which a command
takes the sources of `s` to those of `t`: a source is drawn from only when the one before it is through. -/
structure FirstDraws (n : Nat) (s t : State) (x y z : Nat) : Prop where
  total : x + y + z = min n ((t.ent.used - s.ent.used) + (t.fast.used - s.fast.used) + (t.cyc.used - s.cyc.used))
  ent_le : s.ent.used + x ≤ t.ent.used
  fast_le : s.fast.used + y ≤ t.fast.used
  cyc_le : s.cyc.used + z ≤ t.cyc.used
  ent_through : 0 < y ∨ 0 < z → t.ent = s.ent.after x
  fast_through : 0 < z → t.fast = s.fast.after y

/-- A state with `x`, `y`, `z` draws made on its entropy source, its fast source and `cyc`. -/
def State.afterDraws (s : State) (x y z : Nat) : State :=
  { s with ent := s.ent.after x, fast := s.fast.after y, cyc := s.cyc.after z }

/-- The draws `drawsUpTo` keeps are the first ones. -/
theorem State.DrawsTo.drawsUpTo {s t : State} (h : s.DrawsTo t) (n : Nat) :
    ∃ x y z, s.drawsUpTo n t = s.afterDraws x y z ∧ FirstDraws n s t x y z := by
  have he := h.ent.used_le
  have hf := h.fast.used_le
  have hc := h.cyc.used_le
  refine ⟨_, _, _, rfl, ⟨by omega, by omega, by omega, by omega, fun hyz => ?_, fun hz => ?_⟩⟩
  · rw [Nat.min_eq_right (by omega)]; exact h.ent.eq_after
  · rw [Nat.min_eq_right (by omega)]; exact h.fast.eq_after

theorem runCommand_of_decode {w : U64} {i : Instr} (hd : decodeWord w = some i) (s : State) :
    runCommand w s = exec i s := by
  simp [runCommand, hd]

theorem runCommand_of_illegal {w : U64} (hd : decodeWord w = none) (s : State) :
    runCommand w s = .next (s.raise .illegal) := by
  simp [runCommand, hd]

/-- An illegal word makes no draw, so nothing is left of it. -/
theorem State.abandonCommand_illegal {w : U64} (hd : decodeWord w = none) (n : Nat) (s : State) :
    s.abandonCommand w n = s := by
  simp [State.abandonCommand, runCommand_of_illegal hd, State.drawsUpTo]

theorem State.abandonCommand_next {w : U64} {i : Instr} {s t : State} (hd : decodeWord w = some i)
    (he : exec i s = .next t) (n : Nat) : s.abandonCommand w n = s.drawsUpTo n t := by
  simp [State.abandonCommand, runCommand_of_decode hd, he]

/-- Nothing is left of a command that has no end: it draws from a generator only. -/
theorem State.abandonCommand_stops {w : U64} {i : Instr} {s : State} (hd : decodeWord w = some i)
    (he : ∀ t, exec i s ≠ .next t) (n : Nat) : s.abandonCommand w n = s := by
  rcases s.abandonCommand_cases w n with ⟨t, h, _⟩ | h
  · exact absurd (runCommand_of_decode hd s ▸ h) (he t)
  · exact h

/-- What is left of an abandoned command: the first `n` of its draws. -/
theorem State.abandonCommand_afterDraws (w : U64) (n : Nat) (s : State) :
    ∃ x y z, s.abandonCommand w n = s.afterDraws x y z ∧
      (decodeWord w = none → x + y + z = 0) ∧
      ∀ i, decodeWord w = some i →
        (exec i s = .fault .samplerDiverges → x + y + z = 0) ∧ ∀ t, exec i s = .next t → FirstDraws n s t x y z := by
  cases hd : decodeWord w with
  | none => exact ⟨0, 0, 0, State.abandonCommand_illegal hd n s, fun _ => rfl, by simp⟩
  | some i =>
    by_cases he : ∃ t, exec i s = .next t
    · obtain ⟨t, he⟩ := he
      obtain ⟨x, y, z, hu, hfd⟩ := (exec_drawsTo he).drawsUpTo n
      refine ⟨x, y, z, (State.abandonCommand_next hd he n).trans hu, by simp, ?_⟩
      rintro _ ⟨⟩
      refine ⟨fun hf => by simp [he] at hf, fun u hu => ?_⟩
      cases he.symm.trans hu
      exact hfd
    · rw [not_exists] at he
      refine ⟨0, 0, 0, State.abandonCommand_stops hd he n, by simp, ?_⟩
      rintro _ ⟨⟩
      exact ⟨fun _ => rfl, fun t ht => absurd ht (he t)⟩

/-! ### The reset input -/

/-- The first reset at the port is taken from among the accesses that wait before it. -/
theorem takeReset_append_cons {a b : List HostEvent} {e : HostEvent} {ids : Ids} (ha : ∀ x ∈ a, x.resetIds = none)
    (he : e.resetIds = some ids) : takeReset (a ++ e :: b) = some (ids, a ++ b) := by
  induction a with
  | nil => simp [takeReset, he]
  | cons x a ih =>
    have hx : x.resetIds = none := ha x (by simp)
    have hr : takeReset (a ++ e :: b) = some (ids, a ++ b) := ih fun y hy => ha y (by simp [hy])
    simp [takeReset, hx, hr]

theorem step_reset {s : State} {ids : Ids} {rest : List HostEvent} (hh : s.held = false)
    (hp : s.port = .reset ids :: rest) : step s = .next ({ s with port := rest }.resetBlock ids) :=
  step_cons hh hp

theorem step_held_reset {s : State} {a b : List HostEvent} {e : HostEvent} {ids : Ids} (hh : s.held = true)
    (hp : s.port = a ++ e :: b) (ha : ∀ x ∈ a, x.resetIds = none) (he : e.resetIds = some ids) :
    step s = .next ({ s with port := a ++ b }.resetBlock ids) := by
  rw [step_held hh, State.whileHeld, hp, takeReset_append_cons ha he]

theorem step_abandon {s : State} {w : U64} {n : Nat} {ids : Ids} {rest : List HostEvent} (hh : s.held = false)
    (hp : s.port = .abandon w n ids :: rest) :
    step s = .next (({ s with port := rest }.abandonCommand w n).resetBlock ids) :=
  step_cons hh hp

/-- Settles O14: each way a reset arrives ends in `resetBlock`, and an abandoned command leaves its first draws. -/
theorem resetEventResetsTheBlock : Obligations.ResetEventResetsTheBlock := by
  refine ⟨fun s ids rest hh hp => step_reset hh hp, fun s a b e ids hh hp ha he => step_held_reset hh hp ha he, ?_⟩
  intro s w n ids rest hh hp
  obtain ⟨x, y, z, hleft, hnone, hsome⟩ := State.abandonCommand_afterDraws w n { s with port := rest }
  refine ⟨x, y, z, ?_, hnone, fun i hi => ?_⟩
  · rw [step_abandon hh hp, hleft]; rfl
  · obtain ⟨hfault, hnext⟩ := hsome i hi
    refine ⟨hfault, fun t ht => ?_⟩
    obtain ⟨htotal, hent, hfast, hcyc, hentThrough, hfastThrough⟩ := hnext t ht
    exact ⟨htotal, hent, hfast, hcyc, hentThrough, hfastThrough⟩

end Sys2Proof.Machine
end

section
/-!
PROOF. Every command as a sequence of single writes of the state: which writes a command can make is said once, and
what no command changes is read off the writes (10_state.md R21, R28 to R34, 30_encoding.md R100).
-/

namespace Sys2Proof.Machine

open Sys2Proof

/-! ### The writes a command can make -/

/-- The commands that evaluate `cap` (41_crc.md R140, 44_capability_entropy.md R222, R225, R226, R231). -/
def capCommands : List Instr :=
  [.crc8, .crc16, .crc32, .crc64, .hash32, .hash64, .tryfast, .tryent, .autoseed, .capq .crc, .capq .fast, .capq .ent]

/-- One write that the command `i` can make. Writes of `STATUS` and `RES0` are open to every command. -/
inductive Writes (i : Instr) : State → State → Prop where
  | status (s : State) (c : Code) (src : Source) (hsrc : src ≠ .none → c = .ok) : Writes i s (s.setStatus c src)
  | res0 (s : State) {w : Nat} (x : BitVec w) : Writes i s (s.withRes0 x)
  | res1 (s : State) {w : Nat} (x : BitVec w) {v : Variant} (hi : i = .gunif v) : Writes i s (s.withRes1 x)
  | sxacc (s : State) (x : U64) (hi : i = .sxnext) : Writes i s { s with sxacc := x }
  | cap (s : State) (f : Feature) (hi : i ∈ capCommands) : Writes i s (s.afterCap f)
  | fast (s : State) (q : Feed Attempt) (hi : i ∈ [Instr.tryfast, .autoseed]) : Writes i s { s with fast := q }
  | ent (s : State) (q : Feed Attempt) (hi : i ∈ [Instr.tryent, .autoseed]) : Writes i s { s with ent := q }
  | cyc (s : State) (q : Feed U64) (hi : i = .autoseed) : Writes i s { s with cyc := q }
  | advance (s : State) (v : Variant) (hi : i ∈ [Instr.gnext v, .gunif v, .gbound v, .grange v]) :
      Writes i s (s.advance v)
  | jump (s : State) (v : Variant) (hi : i = .gjump v) : Writes i s (s.jumpFile v)
  | init (s : State) (v : Variant) (seed : U64) (hi : i = .ginit v) : Writes i s ((s.initFile v seed).markInited v)
  | adopt (s : State) (v : Variant) (hi : i = .gadopt v) (hz : s.fileZero v = false) : Writes i s (s.markInited v)

/-- `t` is `s` after some writes of the command `i`. -/
abbrev Runs (i : Instr) : State → State → Prop := Relation.ReflTransGen (Writes i)

section runs

variable {i : Instr} {s t : State}

theorem Runs.succeed (h : Runs i s t) (src : Source) : Runs i s (t.succeed src) :=
  h.tail (.status t .ok src fun _ => rfl)

theorem Runs.raise (h : Runs i s t) (c : Code) : Runs i s (t.raise c) :=
  h.tail (.status t c .none fun hne => absurd rfl hne)

theorem Runs.deliver (h : Runs i s t) {w : Nat} (x : BitVec w) (src : Source) :
    Runs i s ((t.withRes0 x).succeed src) :=
  Runs.succeed (h.tail (.res0 t x)) src

theorem Runs.afterCap (h : Runs i s t) (f : Feature) (hi : i ∈ capCommands) : Runs i s (t.afterCap f) :=
  h.tail (.cap t f hi)

theorem Runs.advances (v : Variant) (hi : i ∈ [Instr.gnext v, .gunif v, .gbound v, .grange v]) (n : Nat) (s : State) :
    Runs i s ((State.advance v)^[n] s) := by
  induction n with
  | zero => exact .refl
  | succ n ih => rw [Function.iterate_succ_apply']; exact ih.tail (.advance _ v hi)

end runs

/-! ### The sampler steps its generator -/

theorem State.advance_g32_iterate (n : Nat) (s : State) :
    (State.advance .g32)^[n] s = { s with g32 := s.fileG32After n } := by
  induction n with
  | zero => rfl
  | succ n ih => simp only [State.fileG32After, Function.iterate_succ_apply'] at ih ⊢; rw [ih]; rfl

theorem State.advance_g64_iterate (n : Nat) (s : State) :
    (State.advance .g64)^[n] s = { s with g64 := s.fileG64After n } := by
  induction n with
  | zero => rfl
  | succ n ih => simp only [State.fileG64After, Function.iterate_succ_apply'] at ih ⊢; rw [ih]; rfl

/-- The rejection loop leaves the generator some draws further on. -/
theorem redraw_iterate {w : Nat} {σ : Type} {draw : σ → BitVec w × σ} {limit r : BitVec w} {n m : Nat} {st f : σ}
    (h : redraw draw limit n m st = some (r, f)) : ∃ k, f = (fun x => (draw x).2)^[k] st := by
  induction n generalizing m st with
  | zero =>
    simp only [redraw] at h
    split at h
    · cases h
    · cases h; exact ⟨0, rfl⟩
  | succ n ih =>
    simp only [redraw] at h
    split at h
    · obtain ⟨k, hk⟩ := ih h; exact ⟨k + 1, hk⟩
    · cases h; exact ⟨0, rfl⟩

/-- The sampler leaves the generator some draws further on. -/
theorem bounded_iterate {w : Nat} {σ : Type} {draw : σ → BitVec w × σ} {limit r : BitVec w} {st f : σ}
    (h : bounded draw limit st = some (r, f)) : ∃ k, f = (fun x => (draw x).2)^[k] st := by
  unfold bounded at h
  split at h
  · obtain ⟨k, hk⟩ := redraw_iterate h; exact ⟨k + 1, hk⟩
  · cases h; exact ⟨1, rfl⟩

/-! ### What a command can end in -/

/-- `o` is an end of the command `i` on `s`: the state after some of its writes, or the loop that never ends. -/
def Ends (i : Instr) (s : State) (o : Host.Outcome State Fault Refusal) : Prop :=
  (∃ t, o = .next t ∧ Runs i s t) ∨ o = .fault .samplerDiverges

section ends

variable {i : Instr} {s t : State}

theorem Runs.ends (h : Runs i s t) : Ends i s (.next t) := .inl ⟨t, rfl, h⟩

theorem ends_raise (i : Instr) (s : State) (c : Code) : Ends i s (.next (s.raise c)) := Runs.ends (Runs.raise .refl c)

theorem ends_ite {p : Prop} [Decidable p] {o o' : Host.Outcome State Fault Refusal} (h : Ends i s o)
    (h' : Ends i s o') : Ends i s (if p then o else o') := by
  split
  · exact h
  · exact h'

theorem ends_needsInit {v : Variant} {body : State → Host.Outcome State Fault Refusal} (h : Ends i s (body s)) :
    Ends i s (needsInit v s body) := by
  rcases needsInit_cases v s body with ⟨_, e⟩ | ⟨_, e⟩ <;> rw [e]
  · exact h
  · exact ends_raise i s .noinit

theorem runs_gatedByCrc {body : State → State} (hi : i ∈ capCommands)
    (h : Runs i (s.afterCap .crc) (body (s.afterCap .crc))) : Runs i s (gatedByCrc s body) := by
  have hc : Runs i s (s.afterCap .crc) := Runs.afterCap .refl .crc hi
  rcases gatedByCrc_cases s body with ⟨_, e⟩ | ⟨_, e⟩ <;> rw [e]
  · exact hc.trans h
  · exact Runs.raise hc .unavail

theorem runs_crcCommand (hi : i ∈ capCommands) (n : Nat) (s : State) : Runs i s (crcCommand n s) :=
  runs_gatedByCrc hi (Runs.deliver .refl _ _)

theorem runs_hashCommand (hi : i ∈ capCommands) {w : Nat} (h : State → Nat → Nat → BitVec w) (s : State) :
    Runs i s (hashCommand h s) := by
  refine runs_gatedByCrc hi ?_
  split
  · exact Runs.deliver .refl _ _
  · exact Runs.raise .refl _

theorem ends_sampleG32 (hi : i = .gbound .g32 ∨ i = .grange .g32) (min limit : U32) (s : State) :
    Ends i s (s.sampleG32 min limit) := by
  unfold State.sampleG32
  split
  · rename_i r f hb
    obtain ⟨k, rfl⟩ := bounded_iterate hb
    have hk : Runs i s { s with g32 := s.fileG32After k } := by
      rw [← State.advance_g32_iterate]
      exact Runs.advances .g32 (by rcases hi with rfl | rfl <;> simp) k s
    exact Runs.ends (Runs.deliver hk _ _)
  · exact .inr rfl

theorem ends_sampleG64 (hi : i = .gbound .g64 ∨ i = .grange .g64) (min limit : U64) (s : State) :
    Ends i s (s.sampleG64 min limit) := by
  unfold State.sampleG64
  split
  · rename_i r f hb
    obtain ⟨k, rfl⟩ := bounded_iterate hb
    have hk : Runs i s { s with g64 := s.fileG64After k } := by
      rw [← State.advance_g64_iterate]
      exact Runs.advances .g64 (by rcases hi with rfl | rfl <;> simp) k s
    exact Runs.ends (Runs.deliver hk _ _)
  · exact .inr rfl

theorem ends_gnext (v : Variant) (s : State) : Ends (.gnext v) s (execGnext v s) :=
  ends_needsInit (Runs.ends (Runs.deliver (.single (.advance s v (by simp))) _ _))

theorem ends_gjump (v : Variant) (s : State) : Ends (.gjump v) s (execGjump v s) :=
  ends_needsInit (Runs.ends (Runs.succeed (.single (.jump s v rfl)) _))

theorem ends_gunif (v : Variant) (s : State) : Ends (.gunif v) s (execGunif v s) := by
  have ha : ∀ v, Runs (.gunif v) s (s.advance v) := fun v => .single (.advance s v (by simp))
  cases v with
  | g32 | g64 => exact ends_raise _ s .illegal
  | gf | gd =>
    simp only [execGunif]
    exact ends_needsInit (Runs.ends (Runs.succeed (((ha _).tail (.res0 _ _)).tail (.res1 _ _ rfl)) _))

theorem ends_gbound (v : Variant) (s : State) : Ends (.gbound v) s (execGbound v s) := by
  cases v with
  | g32 =>
    simp only [execGbound]
    exact ends_needsInit (ends_ite (ends_raise _ s _) (ends_sampleG32 (.inl rfl) _ _ s))
  | g64 =>
    simp only [execGbound]
    exact ends_needsInit (ends_ite (ends_raise _ s _) (ends_sampleG64 (.inl rfl) _ _ s))
  | gf | gd => exact ends_raise _ s .illegal

theorem ends_grange (v : Variant) (s : State) : Ends (.grange v) s (execGrange v s) := by
  cases v with
  | g32 =>
    simp only [execGrange]
    exact ends_needsInit (ends_ite (ends_raise _ s _) (ends_sampleG32 (.inr rfl) _ _ s))
  | g64 =>
    simp only [execGrange]
    exact ends_needsInit (ends_ite (ends_raise _ s _) (ends_sampleG64 (.inr rfl) _ _ s))
  | gf | gd => exact ends_raise _ s .illegal

theorem runs_gadopt (v : Variant) (s : State) :
    Runs (.gadopt v) s (if s.fileZero v then s.raise .precond else (s.markInited v).succeed) := by
  cases hz : s.fileZero v
  · exact Runs.succeed (.single (.adopt s v rfl hz)) _
  · exact Runs.raise .refl _

theorem runs_deliverFast (hi : i ∈ [Instr.tryfast, .autoseed]) (s : State) (d : U64) : Runs i s (s.deliverFast d) :=
  Runs.deliver (.single (.fast s _ hi)) _ _

theorem runs_deliverEnt (hi : i ∈ [Instr.tryent, .autoseed]) (s : State) (d : U64) : Runs i s (s.deliverEnt d) :=
  Runs.deliver (.single (.ent s _ hi)) _ _

theorem runs_tryFast (s : State) : Runs .tryfast s s.tryFast := by
  rcases s.tryFast_cases with ⟨d, _, e⟩ | ⟨_, e⟩ <;> rw [e]
  · exact runs_deliverFast (by decide) s d
  · exact Runs.raise (.single (.fast s _ (by decide))) _

theorem runs_tryEnt (s : State) : Runs .tryent s s.tryEnt := by
  rcases s.tryEnt_cases with ⟨d, _, e⟩ | ⟨_, e⟩ <;> rw [e]
  · exact runs_deliverEnt (by decide) s d
  · exact Runs.raise (.single (.ent s _ (by decide))) _

theorem runs_tryfast (s : State) :
    Runs .tryfast s
      (if s.capAvailable .fast then (s.afterCap .fast).tryFast else (s.afterCap .fast).raise .unavail) := by
  have hc : Runs .tryfast s (s.afterCap .fast) := Runs.afterCap .refl .fast (by decide)
  split
  · exact hc.trans (runs_tryFast _)
  · exact Runs.raise hc _

theorem runs_tryent (s : State) :
    Runs .tryent s (if s.capAvailable .ent then (s.afterCap .ent).tryEnt else (s.afterCap .ent).raise .unavail) := by
  have hc : Runs .tryent s (s.afterCap .ent) := Runs.afterCap .refl .ent (by decide)
  split
  · exact hc.trans (runs_tryEnt _)
  · exact Runs.raise hc _

theorem runs_seedFromCycle (s : State) : Runs .autoseed s s.seedFromCycle :=
  Runs.deliver (.single (.cyc s _ rfl)) _ _

theorem runs_seedFromFast (s : State) : Runs .autoseed s s.seedFromFast := by
  have hc : Runs .autoseed s (s.afterCap .fast) := Runs.afterCap .refl .fast (by decide)
  rcases s.seedFromFast_cases with ⟨_, d, _, e⟩ | ⟨_, _, e⟩ | ⟨_, e⟩ <;> rw [e]
  · exact hc.trans (runs_deliverFast (by decide) _ d)
  · exact (hc.tail (.fast _ _ (by decide))).trans (runs_seedFromCycle _)
  · exact hc.trans (runs_seedFromCycle _)

theorem runs_seedFromEnt (s : State) : Runs .autoseed s s.seedFromEnt := by
  have hc : Runs .autoseed s (s.afterCap .ent) := Runs.afterCap .refl .ent (by decide)
  rcases s.seedFromEnt_cases with ⟨_, d, _, e⟩ | ⟨_, _, e⟩ | ⟨_, e⟩ <;> rw [e]
  · exact hc.trans (runs_deliverEnt (by decide) _ d)
  · exact (hc.tail (.ent _ _ (by decide))).trans (runs_seedFromFast _)
  · exact hc.trans (runs_seedFromFast _)

end ends

/-- What a command can do, said once: it ends after some of its writes, or its loop never ends. -/
theorem exec_ends (i : Instr) (s : State) : Ends i s (exec i s) := by
  cases i with
  | nop => exact Runs.ends (Runs.succeed .refl _)
  | mix32 | mix64 | comb32 | comb64 => exact Runs.ends (Runs.deliver .refl _ _)
  | sxnext => exact Runs.ends (Runs.deliver (.single (.sxacc s _ rfl)) _ _)
  | crc8 | crc16 | crc32 | crc64 => exact Runs.ends (runs_crcCommand (by decide) _ s)
  | hash32 | hash64 => exact Runs.ends (runs_hashCommand (by decide) _ s)
  | ginit v => exact Runs.ends (Runs.succeed (.single (.init s v _ rfl)) _)
  | gnext v => exact ends_gnext v s
  | gjump v => exact ends_gjump v s
  | gunif v => exact ends_gunif v s
  | gbound v => exact ends_gbound v s
  | grange v => exact ends_grange v s
  | gadopt v => exact Runs.ends (runs_gadopt v s)
  | capq f => exact Runs.ends (Runs.deliver (Runs.afterCap .refl f (by cases f <;> decide)) _ _)
  | tryfast => exact Runs.ends (runs_tryfast s)
  | tryent => exact Runs.ends (runs_tryent s)
  | autoseed => exact Runs.ends (runs_seedFromEnt s)

theorem exec_runs {i : Instr} {s t : State} (h : exec i s = .next t) : Runs i s t := by
  rcases exec_ends i s with ⟨u, hu, hr⟩ | hf
  · rw [hu] at h; cases h; exact hr
  · simp [hf] at h

/-- A property of the state that every write of a command keeps is kept by the command. -/
theorem Runs.keeps {i : Instr} {s t : State} {P : State → Prop} (h : Runs i s t)
    (hw : ∀ a b, Writes i a b → P a → P b) (hs : P s) : P t := by
  induction h with
  | refl => exact hs
  | tail _ w ih => exact hw _ _ w ih

/-- A part of the state that no write of a command changes is not changed by the command. -/
theorem Runs.same {i : Instr} {s t : State} {α : Type} {part : State → α} (h : Runs i s t)
    (hw : ∀ a b, Writes i a b → part b = part a) : part t = part s :=
  Runs.keeps (P := fun u => part u = part s) h (fun a b w ha => (hw a b w).trans ha) rfl

end Sys2Proof.Machine
end

section
/-!
PROOF. What no command changes, read off the writes a command can make, and what the step of a write of `CMD` is.
-/

namespace Sys2Proof.Machine

open Sys2Proof

/-! ### The state no command touches -/

/-- `t` agrees with `s` on the parameters, the inputs, `CMD`, the operands, the buffer and the port. -/
structure State.SameRest (s t : State) : Prop where
  par : t.par = s.par
  ids : t.ids = s.ids
  cmd : t.cmd = s.cmd
  opa : t.opa = s.opa
  opb : t.opb = s.opb
  buf : t.buf = s.buf
  bufGen : t.bufGen = s.bufGen
  port : t.port = s.port
  resp : t.resp = s.resp
  held : t.held = s.held

theorem State.SameRest.refl (s : State) : s.SameRest s := by constructor <;> rfl

theorem State.SameRest.trans {s t u : State} (h : s.SameRest t) (h' : t.SameRest u) : s.SameRest u where
  par := h'.par.trans h.par
  ids := h'.ids.trans h.ids
  cmd := h'.cmd.trans h.cmd
  opa := h'.opa.trans h.opa
  opb := h'.opb.trans h.opb
  buf := h'.buf.trans h.buf
  bufGen := h'.bufGen.trans h.bufGen
  port := h'.port.trans h.port
  resp := h'.resp.trans h.resp
  held := h'.held.trans h.held

theorem Writes.sameRest {i : Instr} {s t : State} (w : Writes i s t) : s.SameRest t := by
  cases w <;> constructor <;> simp

theorem Runs.sameRest {i : Instr} {s t : State} (h : Runs i s t) : s.SameRest t :=
  h.keeps (fun _ _ w hs => hs.trans w.sameRest) (State.SameRest.refl s)

/-! ### The generator files -/

/-- The file of `v` is the same in `t` as in `s`. -/
def State.SameFile (v : Variant) (s t : State) : Prop :=
  match v with
  | .g32 => t.g32 = s.g32
  | .g64 => t.g64 = s.g64
  | .gf => t.gf = s.gf
  | .gd => t.gd = s.gd

theorem State.SameFile.refl (v : Variant) (s : State) : s.SameFile v s := by cases v <;> rfl

theorem State.SameFile.trans {v : Variant} {s t u : State} (h : s.SameFile v t) (h' : t.SameFile v u) :
    s.SameFile v u := by
  cases v <;> exact Eq.trans h' h

theorem State.sameFile_of_eq (v : Variant) {s t : State} (h32 : t.g32 = s.g32) (h64 : t.g64 = s.g64) (hf : t.gf = s.gf)
    (hd : t.gd = s.gd) : s.SameFile v t := by
  cases v <;> assumption

section otherFile

variable {u v : Variant} (huv : u ≠ v) (s : State)
include huv

theorem State.sameFile_advance : s.SameFile v (s.advance u) := by
  cases v <;> simp [State.SameFile, huv]

theorem State.sameFile_jumpFile : s.SameFile v (s.jumpFile u) := by
  cases v <;> simp [State.SameFile, huv]

theorem State.sameFile_initFile (seed : U64) : s.SameFile v (s.initFile u seed) := by
  cases v <;> simp [State.SameFile, huv]

end otherFile

theorem State.sameFile_markInited (u v : Variant) (s : State) : s.SameFile v (s.markInited u) :=
  State.sameFile_of_eq v rfl rfl rfl rfl

/-- The commands that step or initialise the generator `v`. -/
def generatorCommands (v : Variant) : List Instr := [.ginit v, .gnext v, .gjump v, .gunif v, .gbound v, .grange v]

/-- A command on one variant is no command on another. -/
theorem notMem_generatorCommands {i : Instr} {u v : Variant} (hi : i ∈ generatorCommands v) (h : v ≠ u) :
    i ∉ generatorCommands u := by
  simp only [generatorCommands, List.mem_cons, List.not_mem_nil, or_false] at hi
  rcases hi with rfl | rfl | rfl | rfl | rfl | rfl <;> simp [generatorCommands, h]

theorem Writes.sameFile {i : Instr} {s t : State} {v : Variant} (hv : i ∉ generatorCommands v) (w : Writes i s t) :
    s.SameFile v t := by
  cases w with
  | advance u hi =>
    refine State.sameFile_advance ?_ s
    rintro rfl
    refine hv ?_
    simp only [generatorCommands, List.mem_cons] at hi ⊢
    tauto
  | jump u hi =>
    refine State.sameFile_jumpFile ?_ s
    rintro rfl
    simp [generatorCommands, hi] at hv
  | init u seed hi =>
    refine (State.sameFile_initFile ?_ s seed).trans (State.sameFile_markInited _ _ _)
    rintro rfl
    simp [generatorCommands, hi] at hv
  | _ => exact State.sameFile_of_eq v (by simp) (by simp) (by simp) (by simp)

theorem Runs.sameFile {i : Instr} {s t : State} {v : Variant} (h : Runs i s t) (hv : i ∉ generatorCommands v) :
    s.SameFile v t :=
  h.keeps (fun _ _ w hs => hs.trans (w.sameFile hv)) (State.SameFile.refl v s)

/-! ### The state one family owns -/

section owned

variable {i : Instr} {s t : State} (h : Runs i s t)
include h

theorem Runs.res1 (hi : ∀ v, i ≠ .gunif v) : t.res1 = s.res1 :=
  h.same fun a b w => by
    cases w with
    | res1 _ hv => exact absurd hv (hi _)
    | _ => simp

theorem Runs.sxacc (hi : i ≠ .sxnext) : t.sxacc = s.sxacc :=
  h.same fun a b w => by
    cases w with
    | sxacc _ hx => exact absurd hx hi
    | _ => simp

theorem Runs.ginited (hi : ∀ v, i ≠ .ginit v ∧ i ≠ .gadopt v) : t.ginited = s.ginited :=
  h.same fun a b w => by
    cases w with
    | init v _ hv => exact absurd hv (hi v).1
    | adopt v hv _ => exact absurd hv (hi v).2
    | _ => simp

theorem Runs.caps (hi : i ∉ capCommands) : t.caps = s.caps :=
  h.same fun a b w => by
    cases w with
    | cap f hc => exact absurd hc hi
    | _ => simp

theorem Runs.fast (hi : i ∉ [Instr.tryfast, .autoseed]) : t.fast = s.fast :=
  h.same fun a b w => by
    cases w with
    | fast _ hf => exact absurd hf hi
    | _ => simp

theorem Runs.ent (hi : i ∉ [Instr.tryent, .autoseed]) : t.ent = s.ent :=
  h.same fun a b w => by
    cases w with
    | ent _ he => exact absurd he hi
    | _ => simp

theorem Runs.cyc (hi : i ≠ .autoseed) : t.cyc = s.cyc :=
  h.same fun a b w => by
    cases w with
    | cyc _ hc => exact absurd hc hi
    | _ => simp

end owned

/-- Settles O56: each clause holds of every write that the command can make. -/
theorem commandsChangeOnlyTheirOwnState : Obligations.CommandsChangeOnlyTheirOwnState := by
  intro i s t h
  have hr := exec_runs h
  obtain ⟨hpar, hids, hcmd, hopa, hopb, hbuf, hgen, hport, hresp, hheld⟩ := hr.sameRest
  have file : ∀ v, i ∉ generatorCommands v → s.SameFile v t := fun v hv => hr.sameFile hv
  refine ⟨hpar, hids, hcmd, hopa, hopb, hport, hresp, hheld, State.bufByte_congr hbuf hgen, hr.res1, hr.sxacc,
    hr.ginited, fun hi => ?_, fun v hi => ?_, hr.caps, hr.fast, hr.ent, hr.cyc⟩
  · have hn : ∀ v, i ∉ generatorCommands v := fun v => by simp [generatorCommands, hi v]
    exact ⟨file .g32 (hn _), file .g64 (hn _), file .gf (hn _), file .gd (hn _)⟩
  · have hv : i ∈ generatorCommands v := by simpa [generatorCommands] using hi
    have other : ∀ u, v ≠ u → s.SameFile u t := fun u hne => file u (notMem_generatorCommands hv hne)
    exact ⟨other .g32, other .g64, other .gf, other .gd⟩

/-! ### A write of `CMD` with a legal word -/

theorem commandStep_of_next {w : U64} {i : Instr} {s t : State} (hd : decodeWord w = some i) (he : exec i s = .next t) :
    commandStep w s = .next t := by
  simp [commandStep, runCommand_of_decode hd, he]

theorem commandStep_of_fault {w : U64} {i : Instr} {s : State} (hd : decodeWord w = some i)
    (he : exec i s = .fault .samplerDiverges) : commandStep w s = .next s.hold := by
  simp [commandStep, runCommand_of_decode hd, he]

/-- Settles O4: the step is the command's, and every command ends or diverges. -/
theorem stepRunsTheDecodedCommand : Obligations.StepRunsTheDecodedCommand := by
  intro s w rest i hh hp hd u
  have hs : step s = commandStep w u := step_cmd hh hp
  refine ⟨fun t ht => hs.trans (commandStep_of_next hd ht), fun hf => hs.trans (commandStep_of_fault hd hf), ?_⟩
  rcases exec_ends i u with ⟨t, ht, _⟩ | hf
  · exact .inl ⟨t, ht⟩
  · exact .inr hf

end Sys2Proof.Machine
end

section
/-!
PROOF. What no command reads: the status an earlier command left, and, but for the hashes, the buffer
(10_state.md R30, 30_encoding.md R100).
-/

namespace Sys2Proof.Machine

open Sys2Proof

/-- `s` with any other value in `STATUS` and any other buffer contents. -/
def State.withUnread (x : U64) (m : Memory) (g : Nat) (s : State) : State :=
  { s with status := x, buf := m, bufGen := g }

/-- `s` with any other buffer contents. -/
def State.withBuf (m : Memory) (g : Nat) (s : State) : State := { s with buf := m, bufGen := g }

/-- The same outcome, with other buffer contents in the next state. -/
def carryBuf (m : Memory) (g : Nat) : Host.Outcome State Fault Refusal → Host.Outcome State Fault Refusal
  | .next t => .next (t.withBuf m g)
  | .fault r => .fault r
  | .refused r => .refused r

theorem hash32_congr {s t : State} (hp : s.par = t.par) (hb : ∀ a, s.bufByte a = t.bufByte a) :
    hash32 s = hash32 t := by
  have hm : ∀ a n, s.memRead a n = t.memRead a n := fun a n => State.memRead_congr fun b _ _ => hb b
  funext off len
  simp only [hash32, hm, hp]

theorem hash64_congr {s t : State} (hp : s.par = t.par) (hb : ∀ a, s.bufByte a = t.bufByte a) :
    hash64 s = hash64 t := by
  have hm : ∀ a n, s.memRead a n = t.memRead a n := fun a n => State.memRead_congr fun b _ _ => hb b
  funext off len
  simp only [hash64, hash64Streams, hm, hp]

section unread

variable (x : U64) (m : Memory) (g : Nat)

theorem State.afterCap_withUnread (f : Feature) (s : State) :
    (s.withUnread x m g).afterCap f = (s.afterCap f).withUnread x m g := by
  by_cases h : capCell s.caps f = 0
  · rw [State.afterCap_unknown h]; exact State.afterCap_unknown h
  · rw [State.afterCap_known h]; exact State.afterCap_known h

theorem State.capAvailable_withUnread (f : Feature) (s : State) :
    (s.withUnread x m g).capAvailable f = s.capAvailable f := by
  unfold State.capAvailable; rw [State.afterCap_withUnread]; rfl

theorem gatedByCrc_withUnread {body : State → State} {s : State}
    (hb : body ((s.afterCap .crc).withUnread x m g) = (body (s.afterCap .crc)).withBuf m g) :
    gatedByCrc (s.withUnread x m g) body = (gatedByCrc s body).withBuf m g := by
  unfold gatedByCrc
  rw [State.capAvailable_withUnread, State.afterCap_withUnread]
  split
  · exact hb
  · rfl

theorem crcCommand_withUnread (n : Nat) (s : State) :
    crcCommand n (s.withUnread x m g) = (crcCommand n s).withBuf m g :=
  gatedByCrc_withUnread x m g rfl

/-- A hash command does not read `STATUS`. -/
theorem hashCommand_withStatus {w : Nat} {h : State → Nat → Nat → BitVec w}
    (hh : ∀ t u : State, t.par = u.par → (∀ a, t.bufByte a = u.bufByte a) → h t = h u) (s : State) :
    hashCommand h (s.withUnread x s.buf s.bufGen) = (hashCommand h s).withBuf s.buf s.bufGen := by
  refine gatedByCrc_withUnread x _ _ ?_
  have hu : h ((s.afterCap .crc).withUnread x s.buf s.bufGen) = h (s.afterCap .crc) :=
    hh _ _ rfl (State.bufByte_congr (by simp [State.withUnread]) (by simp [State.withUnread]))
  have hr : hashRangeOk ((s.afterCap .crc).withUnread x s.buf s.bufGen) = hashRangeOk (s.afterCap .crc) := rfl
  rw [hu, hr]
  split <;> rfl

theorem needsInit_withUnread {v : Variant} {s : State} {body : State → Host.Outcome State Fault Refusal}
    (hb : body (s.withUnread x m g) = carryBuf m g (body s)) :
    needsInit v (s.withUnread x m g) body = carryBuf m g (needsInit v s body) := by
  cases h : isInited s.ginited v
  · rw [needsInit, needsInit, if_neg (by simpa [State.withUnread] using h), if_neg (by simpa using h)]; rfl
  · rw [needsInit, needsInit, if_pos (by simpa [State.withUnread] using h), if_pos (by simpa using h)]; exact hb

theorem State.sampleG32_withUnread (min limit : U32) (s : State) :
    (s.withUnread x m g).sampleG32 min limit = carryBuf m g (s.sampleG32 min limit) := by
  unfold State.sampleG32
  simp only [State.withUnread]
  split <;> rfl

theorem State.sampleG64_withUnread (min limit : U64) (s : State) :
    (s.withUnread x m g).sampleG64 min limit = carryBuf m g (s.sampleG64 min limit) := by
  unfold State.sampleG64
  simp only [State.withUnread]
  split <;> rfl

theorem State.tryFast_withUnread (s : State) : (s.withUnread x m g).tryFast = s.tryFast.withBuf m g := by
  have ha : (s.withUnread x m g).acquireFast = s.acquireFast := rfl
  unfold State.tryFast
  rw [ha]
  split
  · simp only [State.deliverFast, ha]; rfl
  · rfl

theorem State.tryEnt_withUnread (s : State) : (s.withUnread x m g).tryEnt = s.tryEnt.withBuf m g := by
  have ha : (s.withUnread x m g).acquireEnt = s.acquireEnt := rfl
  unfold State.tryEnt
  rw [ha]
  split
  · simp only [State.deliverEnt, ha]; rfl
  · rfl

theorem State.seedFromFast_withUnread (s : State) : (s.withUnread x m g).seedFromFast = s.seedFromFast.withBuf m g := by
  have ha : ((s.afterCap .fast).withUnread x m g).acquireFast = (s.afterCap .fast).acquireFast := rfl
  unfold State.seedFromFast
  rw [State.capAvailable_withUnread, State.afterCap_withUnread, ha]
  split
  · split <;> rfl
  · rfl

theorem State.seedFromEnt_withUnread (s : State) : (s.withUnread x m g).seedFromEnt = s.seedFromEnt.withBuf m g := by
  have ha : ((s.afterCap .ent).withUnread x m g).acquireEnt = (s.afterCap .ent).acquireEnt := rfl
  unfold State.seedFromEnt
  rw [State.capAvailable_withUnread, State.afterCap_withUnread, ha]
  split
  · split
    · rfl
    · exact State.seedFromFast_withUnread x m g { s.afterCap .ent with ent := (s.afterCap .ent).acquireEnt.2 }
  · exact State.seedFromFast_withUnread x m g (s.afterCap .ent)

theorem State.succeed_withUnread (src : Source) (s : State) :
    (s.withUnread x m g).succeed src = (s.succeed src).withBuf m g := rfl

theorem State.withRes0_withUnread {w : Nat} (v : BitVec w) (s : State) :
    (s.withUnread x m g).withRes0 v = (s.withRes0 v).withUnread x m g := rfl

theorem State.initFile_withUnread (v : Variant) (seed : U64) (s : State) :
    (s.withUnread x m g).initFile v seed = (s.initFile v seed).withUnread x m g := by
  cases v <;> rfl

theorem State.markInited_withUnread (v : Variant) (s : State) :
    (s.withUnread x m g).markInited v = (s.markInited v).withUnread x m g := rfl

theorem State.advance_withUnread (v : Variant) (s : State) :
    (s.withUnread x m g).advance v = (s.advance v).withUnread x m g := by
  cases v <;> rfl

theorem State.nextOut_withUnread (v : Variant) (s : State) : (s.withUnread x m g).nextOut v = s.nextOut v := by
  cases v <;> rfl

theorem State.jumpFile_withUnread (v : Variant) (s : State) :
    (s.withUnread x m g).jumpFile v = (s.jumpFile v).withUnread x m g := by
  cases v <;> simp only [State.jumpFile, State.withUnread]

theorem execGinit_withUnread (v : Variant) (s : State) :
    execGinit v (s.withUnread x m g) = carryBuf m g (execGinit v s) := by
  simp only [execGinit, State.initFile_withUnread, State.markInited_withUnread, State.succeed_withUnread]
  rfl

theorem execGnext_withUnread (v : Variant) (s : State) :
    execGnext v (s.withUnread x m g) = carryBuf m g (execGnext v s) := by
  refine needsInit_withUnread x m g ?_
  simp only [State.advance_withUnread, State.nextOut_withUnread, State.withRes0_withUnread, State.succeed_withUnread]
  rfl

theorem execGjump_withUnread (v : Variant) (s : State) :
    execGjump v (s.withUnread x m g) = carryBuf m g (execGjump v s) := by
  refine needsInit_withUnread x m g ?_
  simp only [State.jumpFile_withUnread, State.succeed_withUnread]
  rfl

theorem execGunif_withUnread (v : Variant) (s : State) :
    execGunif v (s.withUnread x m g) = carryBuf m g (execGunif v s) := by
  cases v with
  | g32 | g64 => rfl
  | gf | gd =>
    simp only [execGunif]
    exact needsInit_withUnread x m g rfl

theorem execGbound_withUnread (v : Variant) (s : State) :
    execGbound v (s.withUnread x m g) = carryBuf m g (execGbound v s) := by
  have ha : ∀ w, (s.withUnread x m g).opaLow w = s.opaLow w := fun _ => rfl
  cases v with
  | g32 =>
    simp only [execGbound]
    refine needsInit_withUnread x m g ?_
    rw [ha, State.sampleG32_withUnread]
    split <;> rfl
  | g64 =>
    simp only [execGbound]
    refine needsInit_withUnread x m g ?_
    rw [ha, State.sampleG64_withUnread]
    split <;> rfl
  | gf | gd => rfl

theorem execGrange_withUnread (v : Variant) (s : State) :
    execGrange v (s.withUnread x m g) = carryBuf m g (execGrange v s) := by
  have ha : ∀ w, (s.withUnread x m g).opaLow w = s.opaLow w := fun _ => rfl
  have hb : ∀ w, (s.withUnread x m g).opbLow w = s.opbLow w := fun _ => rfl
  cases v with
  | g32 =>
    simp only [execGrange]
    refine needsInit_withUnread x m g ?_
    rw [ha, hb, State.sampleG32_withUnread]
    split <;> rfl
  | g64 =>
    simp only [execGrange]
    refine needsInit_withUnread x m g ?_
    rw [ha, hb, State.sampleG64_withUnread]
    split <;> rfl
  | gf | gd => rfl

theorem execGadopt_withUnread (v : Variant) (s : State) :
    execGadopt v (s.withUnread x m g) = carryBuf m g (execGadopt v s) := by
  have hz : (s.withUnread x m g).fileZero v = s.fileZero v := by cases v <;> rfl
  unfold execGadopt
  rw [hz]
  split <;> rfl

theorem execCapq_withUnread (f : Feature) (s : State) :
    execCapq f (s.withUnread x m g) = carryBuf m g (execCapq f s) := by
  unfold execCapq
  rw [State.capAvailable_withUnread, State.afterCap_withUnread]
  rfl

theorem execTryfast_withUnread (s : State) : execTryfast (s.withUnread x m g) = carryBuf m g (execTryfast s) := by
  unfold execTryfast
  rw [State.capAvailable_withUnread, State.afterCap_withUnread, State.tryFast_withUnread]
  split <;> rfl

theorem execTryent_withUnread (s : State) : execTryent (s.withUnread x m g) = carryBuf m g (execTryent s) := by
  unfold execTryent
  rw [State.capAvailable_withUnread, State.afterCap_withUnread, State.tryEnt_withUnread]
  split <;> rfl

end unread

/-- A command reads neither `STATUS` nor, unless it is a hash, the buffer. -/
theorem exec_withUnread {i : Instr} {s : State} {m : Memory} {g : Nat}
    (hi : i = .hash32 ∨ i = .hash64 → m = s.buf ∧ g = s.bufGen) (x : U64) :
    exec i (s.withUnread x m g) = carryBuf m g (exec i s) := by
  cases i with
  | nop | mix32 | mix64 | comb32 | comb64 | sxnext => rfl
  | crc8 | crc16 | crc32 | crc64 => exact congrArg Host.Outcome.next (crcCommand_withUnread x m g _ s)
  | hash32 =>
    obtain ⟨rfl, rfl⟩ := hi (.inl rfl)
    exact congrArg Host.Outcome.next (hashCommand_withStatus x (fun _ _ => hash32_congr) s)
  | hash64 =>
    obtain ⟨rfl, rfl⟩ := hi (.inr rfl)
    exact congrArg Host.Outcome.next (hashCommand_withStatus x (fun _ _ => hash64_congr) s)
  | ginit v => exact execGinit_withUnread x m g v s
  | gnext v => exact execGnext_withUnread x m g v s
  | gjump v => exact execGjump_withUnread x m g v s
  | gunif v => exact execGunif_withUnread x m g v s
  | gbound v => exact execGbound_withUnread x m g v s
  | grange v => exact execGrange_withUnread x m g v s
  | gadopt v => exact execGadopt_withUnread x m g v s
  | capq f => exact execCapq_withUnread x m g f s
  | tryfast => exact execTryfast_withUnread x m g s
  | tryent => exact execTryent_withUnread x m g s
  | autoseed => exact congrArg Host.Outcome.next (State.seedFromEnt_withUnread x m g s)

/-- No command writes the buffer, so carrying its contents over changes nothing. -/
theorem carryBuf_exec (i : Instr) (s : State) : carryBuf s.buf s.bufGen (exec i s) = exec i s := by
  rcases exec_ends i s with ⟨t, ht, hr⟩ | hf
  · obtain ⟨hbuf, hgen⟩ : t.buf = s.buf ∧ t.bufGen = s.bufGen := ⟨hr.sameRest.buf, hr.sameRest.bufGen⟩
    rw [ht, ← hbuf, ← hgen]; rfl
  · rw [hf]; rfl

/-- Settles O59: a command that is no hash gives the same next state with the other contents carried over. -/
theorem onlyTheHashesReadTheBuffer : Obligations.OnlyTheHashesReadTheBuffer := by
  intro i s t m g h32 h64 ht
  have h := exec_withUnread (s := s) (m := m) (g := g) (fun hi => (hi.elim h32 h64).elim) s.status
  rwa [ht] at h

/-- Settles O58: with the buffer as it is, only the status an earlier command left differs. -/
theorem noCommandReadsStatus : Obligations.NoCommandReadsStatus := by
  intro i s x
  exact (exec_withUnread (fun _ => ⟨rfl, rfl⟩) x).trans (carryBuf_exec i s)

end Sys2Proof.Machine
end

section
/-!
PROOF. The fields of `CAPS`, and what an evaluation of `cap` does to them (10_state.md R26, R27).
-/

namespace Sys2Proof.Machine

open Sys2Proof

theorem getLsbD_three (j : Nat) : (3 : U64).getLsbD j = decide (j < 2) := by
  match j with
  | 0 => rfl
  | 1 => rfl
  | j + 2 =>
    have h3 : 3 < 2 ^ (j + 2) := by
      have := Nat.one_le_two_pow (n := j)
      rw [Nat.pow_add]; omega
    have hbit : Nat.testBit 3 (j + 2) = false := Nat.testBit_lt_two_pow h3
    simp [BitVec.getLsbD, hbit]

/-- The bits of `CAPS` after a cell is replaced: those of the cell inside it, the old ones elsewhere. -/
theorem getLsbD_setCapCell (caps : U64) (f : Feature) (c : BitVec 2) {j : Nat} (hj : j < 64) :
    (setCapCell caps f c).getLsbD j =
      if capShift f ≤ j ∧ j < capShift f + 2 then c.getLsbD (j - capShift f) else caps.getLsbD j := by
  simp only [setCapCell, BitVec.getLsbD_or, BitVec.getLsbD_and, BitVec.getLsbD_not, BitVec.getLsbD_shiftLeft,
    getLsbD_three, BitVec.getLsbD_setWidth, hj, decide_true, Bool.true_and]
  by_cases h1 : j < capShift f
  · simp [h1, Nat.not_le.mpr h1]
  · by_cases h2 : j < capShift f + 2
    · have : j - capShift f < 2 := by omega
      have h3 : j - capShift f < 64 := by omega
      simp [h1, h2, this, h3, Nat.not_lt.mp h1]
    · have h3 : ¬ j - capShift f < 2 := by omega
      simp [h1, h2, h3, BitVec.getLsbD_of_ge c (j - capShift f) (by omega)]

theorem capCell_setCapCell_same (caps : U64) (f : Feature) (c : BitVec 2) : capCell (setCapCell caps f c) f = c := by
  ext j hj
  have hf : capShift f + j < 64 := by cases f <;> simp [capShift] <;> omega
  simp [capCell, BitVec.getElem_extractLsb', getLsbD_setCapCell _ _ _ hf, BitVec.getLsbD_eq_getElem, hj]

theorem capCell_setCapCell_ne (caps : U64) {f g : Feature} (h : g ≠ f) (c : BitVec 2) :
    capCell (setCapCell caps f c) g = capCell caps g := by
  ext j hj
  have hg : capShift g + j < 64 := by cases g <;> simp [capShift] <;> omega
  have hfg : ¬ (capShift f ≤ capShift g + j ∧ capShift g + j < capShift f + 2) := by
    cases f <;> cases g <;> simp [capShift] at h ⊢ <;> omega
  simp [capCell, BitVec.getElem_extractLsb', getLsbD_setCapCell _ _ _ hg, hfg]

theorem setCapCell_reserved (caps : U64) (f : Feature) (c : BitVec 2) :
    (setCapCell caps f c).extractLsb' 6 58 = caps.extractLsb' 6 58 := by
  ext j hj
  have hf : ¬ (capShift f ≤ 6 + j ∧ 6 + j < capShift f + 2) := by cases f <;> simp [capShift] <;> omega
  simp [BitVec.getElem_extractLsb', getLsbD_setCapCell _ _ _ (show 6 + j < 64 by omega), hf]

theorem capAnswer_eq_one {b : Bool} : capAnswer b = 1 ↔ b = true := by cases b <;> decide

theorem capAnswer_eq_two {b : Bool} : capAnswer b = 2 ↔ b = false := by cases b <;> decide

theorem capAnswer_ne_zero (b : Bool) : capAnswer b ≠ 0 := by cases b <;> decide

theorem capAnswer_ne_three (b : Bool) : capAnswer b ≠ 3 := by cases b <;> decide

section afterCap

variable {f : Feature} {s : State}

theorem State.capCell_afterCap_unknown (h : capCell s.caps f = 0) :
    capCell (s.afterCap f).caps f = capAnswer (probe s.par s.ids f) := by
  rw [State.afterCap_unknown h]; exact capCell_setCapCell_same _ _ _

theorem State.capCell_afterCap_ne {g : Feature} (h : g ≠ f) : capCell (s.afterCap f).caps g = capCell s.caps g := by
  rw [State.afterCap_caps]
  split
  · exact capCell_setCapCell_ne _ h _
  · rfl

/-- No evaluation of `cap` changes a cell that has left `unknown`. -/
theorem State.capCell_afterCap_known {g : Feature} (h : capCell s.caps g ≠ 0) :
    capCell (s.afterCap f).caps g = capCell s.caps g := by
  by_cases hg : g = f
  · subst hg; rw [State.afterCap_known h]
  · exact State.capCell_afterCap_ne hg

theorem State.afterCap_reserved (f : Feature) (s : State) :
    (s.afterCap f).caps.extractLsb' 6 58 = s.caps.extractLsb' 6 58 := by
  rw [State.afterCap_caps]
  split
  · exact setCapCell_reserved _ _ _
  · rfl

theorem State.capCell_afterCap_ne_zero (f : Feature) (s : State) : capCell (s.afterCap f).caps f ≠ 0 := by
  by_cases h : capCell s.caps f = 0
  · rw [State.capCell_afterCap_unknown h]; exact capAnswer_ne_zero _
  · rwa [State.afterCap_known h]

theorem State.afterCap_afterCap (f : Feature) (s : State) : (s.afterCap f).afterCap f = s.afterCap f :=
  State.afterCap_known (State.capCell_afterCap_ne_zero f s)

theorem State.capAvailable_unknown (h : capCell s.caps f = 0) : s.capAvailable f = probe s.par s.ids f := by
  rw [State.capAvailable, State.capCell_afterCap_unknown h]
  cases probe s.par s.ids f <;> rfl

end afterCap

/-- Settles O46: `CAPS` changes in the one cell, which is `unknown` before and not after. -/
theorem capabilityIsProbedOnceThenCached : Obligations.CapabilityIsProbedOnceThenCached := by
  intro s f
  refine ⟨State.afterCap_eq f s, fun h => ⟨State.capAvailable_unknown h, State.capCell_afterCap_unknown h⟩,
    fun h => ⟨State.afterCap_known h, ?_⟩, fun g hg => State.capCell_afterCap_ne hg, State.afterCap_reserved f s,
    State.afterCap_afterCap f s, ?_⟩
  · rw [State.capAvailable_known h, beq_iff_eq]
  · rw [State.capAvailable, State.afterCap_afterCap]; rfl

end Sys2Proof.Machine
end

section
/-!
PROOF. The invariant of the registers and the buffer: what reset, a host write and a command do to its parts
(10_state.md R25 to R28, R34, R50).
-/

namespace Sys2Proof.Machine

open Sys2Proof

/-! ### The fields of `STATUS` and `GINITED` -/

theorem statusWord_reserved (c : Code) (src : Source) : (statusWord c src).extractLsb' 6 58 = 0 := by
  cases c <;> cases src <;> decide

theorem codeField_statusWord (c : Code) (src : Source) : codeField (statusWord c src) = c.bits := by
  cases c <;> cases src <;> decide

theorem srcField_statusWord (c : Code) (src : Source) : srcField (statusWord c src) = src.bits := by
  cases c <;> cases src <;> decide

theorem Code.bits_le (c : Code) : c.bits.toNat ≤ 6 := by cases c <;> decide

theorem Variant.number_lt (v : Variant) : v.number.toNat < 4 := v.number.isLt

theorem Variant.number_inj {u v : Variant} : u.number.toNat = v.number.toNat ↔ u = v := by
  cases u <;> cases v <;> decide

theorem initMask_eq_shiftLeft (v : Variant) : initMask v = 1#64 <<< v.number.toNat := by cases v <;> decide

theorem getLsbD_initMask (v : Variant) (j : Nat) : (initMask v).getLsbD j = decide (j = v.number.toNat) := by
  have hv := Variant.number_lt v
  rw [initMask_eq_shiftLeft, BitVec.getLsbD_shiftLeft, BitVec.getLsbD_one, Bool.eq_iff_iff]
  simp only [Bool.and_eq_true, Bool.not_eq_true', decide_eq_true_eq, decide_eq_false_iff_not]
  omega

theorem isInited_setInited (x : U64) (u v : Variant) :
    isInited (setInited x v) u = (isInited x u || decide (u = v)) := by
  simp [isInited, setInited, getLsbD_initMask, Variant.number_inj]

theorem isInited_clearInited (x : U64) (u v : Variant) :
    isInited (clearInited x v) u = (isInited x u && !decide (u = v)) := by
  have hu : u.number.toNat < 64 := by have := Variant.number_lt u; omega
  simp only [isInited, clearInited, BitVec.getLsbD_and, BitVec.getLsbD_not, getLsbD_initMask, Variant.number_inj, hu,
    decide_true, Bool.true_and]

theorem setInited_reserved (x : U64) (v : Variant) : (setInited x v).extractLsb' 4 60 = x.extractLsb' 4 60 := by
  ext j hj
  have hv := Variant.number_lt v
  have : 4 + j ≠ v.number.toNat := by omega
  simp [setInited, getLsbD_initMask, this]

theorem clearInited_reserved (x : U64) (v : Variant) : (clearInited x v).extractLsb' 4 60 = x.extractLsb' 4 60 := by
  ext j hj
  have hv := Variant.number_lt v
  have : 4 + j ≠ v.number.toNat := by omega
  simp [clearInited, getLsbD_initMask, this]; omega

/-! ### What a host access does -/

theorem State.hostRead_cases (s : State) (off n : Nat) : ∃ r, s.hostRead off n = { s with resp := r } := by
  cases h : regAccessOk off n || bufAccessOk s.par off n
  · exact ⟨_, State.hostRead_refused h⟩
  · exact ⟨_, State.hostRead_accepted h⟩

theorem bufAccessOk_bounds {p : Params} {off n : Nat} (h : bufAccessOk p off n = true) :
    bufBase ≤ off ∧ off + n ≤ bufBase + p.bufBytes := by
  simp only [bufAccessOk, Bool.and_eq_true, decide_eq_true_eq] at h
  exact h.1.1

/-- A host write changes nothing but the answer, or writes one register, or writes bytes inside the buffer. -/
theorem State.hostWrite_cases (s : State) (off n : Nat) (v : U64) :
    (∃ r, s.hostWrite off n v = { s with resp := r }) ∨
    (∃ r, s.hostWrite off n v = { s.writeReg v r with resp := .accepted }) ∨
    (∃ a, a + n ≤ s.par.bufBytes ∧ s.hostWrite off n v = { s with buf := s.buf.write a n v, resp := .accepted }) := by
  cases h : regAccessOk off n || bufAccessOk s.par off n
  · exact .inl ⟨_, State.hostWrite_refused h⟩
  rw [State.hostWrite_accepted h]
  by_cases hoff : off < bufBase
  · cases hr : regAt off with
    | none => exact .inl ⟨.accepted, by simp [State.storeData, hoff, hr]⟩
    | some r => exact .inr (.inl ⟨r, by simp [State.storeData, hoff, hr]⟩)
  · have hb : bufAccessOk s.par off n = true := by simpa [regAccessOk, hoff] using h
    obtain ⟨hlo, hhi⟩ := bufAccessOk_bounds hb
    exact .inr (.inr ⟨off - bufBase, by omega, by simp [State.storeData, hoff]⟩)

section writeReg

variable (s : State) (x : U64) (r : Reg)

@[simp] theorem State.writeReg_par : (s.writeReg x r).par = s.par := by cases r <;> rfl
@[simp] theorem State.writeReg_ids : (s.writeReg x r).ids = s.ids := by cases r <;> rfl
@[simp] theorem State.writeReg_status : (s.writeReg x r).status = s.status := by cases r <;> rfl
@[simp] theorem State.writeReg_caps : (s.writeReg x r).caps = s.caps := by cases r <;> rfl
@[simp] theorem State.writeReg_buf : (s.writeReg x r).buf = s.buf := by cases r <;> rfl

/-- A write of a state word clears `GINITED` of its file and leaves the other files; any other register's write leaves
`GINITED` and every file (10_state.md R33). -/
theorem State.writeReg_generators :
    ((s.writeReg x r).ginited = s.ginited ∧ ∀ u, s.SameFile u (s.writeReg x r)) ∨
    ∃ v, (s.writeReg x r).ginited = clearInited s.ginited v ∧ ∀ u, u ≠ v → s.SameFile u (s.writeReg x r) := by
  cases r with
  | g32 i =>
    refine .inr ⟨.g32, rfl, fun u hu => ?_⟩
    cases u with
    | g32 => exact absurd rfl hu
    | _ => rfl
  | g64 i =>
    refine .inr ⟨.g64, rfl, fun u hu => ?_⟩
    cases u with
    | g64 => exact absurd rfl hu
    | _ => rfl
  | gf i =>
    refine .inr ⟨.gf, rfl, fun u hu => ?_⟩
    cases u with
    | gf => exact absurd rfl hu
    | _ => rfl
  | gd i =>
    refine .inr ⟨.gd, rfl, fun u hu => ?_⟩
    cases u with
    | gd => exact absurd rfl hu
    | _ => rfl
  | _ => exact .inl ⟨rfl, fun u => State.sameFile_of_eq u rfl rfl rfl rfl⟩

end writeReg

/-! ### Reset -/

theorem capCell_zero (f : Feature) : capCell 0 f = 0 := by cases f <;> decide

theorem isInited_zero (v : Variant) : isInited 0 v = false := by simp [isInited]

theorem State.inv_resetWith (p : Params) (i : Ids) : (State.resetWith p i).Inv where
  bufWf := rfl
  bufRange := by simp [State.resetWith]
  statusReserved := (by decide : (0 : U64).extractLsb' 6 58 = 0)
  statusCode := (by decide : (codeField 0).toNat ≤ 6)
  statusSource := (by decide : srcField 0 ≠ 0 → codeField 0 = 0)
  capsReserved := (by decide : (0 : U64).extractLsb' 6 58 = 0)
  capsCell f := by rw [State.resetWith, capCell_zero]; decide
  capsSupported f h := by rw [State.resetWith, capCell_zero] at h; exact absurd h (by decide)
  capsUnsupported f h := by rw [State.resetWith, capCell_zero] at h; exact absurd h (by decide)
  ginitedReserved := (by decide : (0 : U64).extractLsb' 4 60 = 0)

theorem State.generatorsNonzero_of_ginited_zero {s : State} (h : s.ginited = 0) : s.GeneratorsNonzero := by
  intro v hv
  rw [h, isInited_zero] at hv
  cases hv

/-- Settles O13: the values of `State.resetWith`, read off. -/
theorem resetPutsEveryRegisterAtItsValue : Obligations.ResetPutsEveryRegisterAtItsValue := by
  intro p i s
  exact ⟨rfl, rfl, rfl, rfl, rfl, rfl, rfl, rfl, rfl, rfl, rfl, rfl, rfl, fun _ => rfl⟩

/-- Settles O54: after reset no generator is marked initialised. -/
theorem resetSatisfiesTheInvariants : Obligations.ResetSatisfiesTheInvariants := fun p i =>
  ⟨State.inv_resetWith p i, State.generatorsNonzero_of_ginited_zero rfl⟩

/-! ### What keeps the invariant -/

/-- The value `c` of the cell of `f` is one of the spec's, and agrees with the probe where it is cached. -/
structure CellOk (s : State) (f : Feature) (c : BitVec 2) : Prop where
  ne_three : c ≠ 3
  supported : c = 1 → probe s.par s.ids f = true
  unsupported : c = 2 → probe s.par s.ids f = false

theorem cellOk_capAnswer (s : State) (f : Feature) : CellOk s f (capAnswer (probe s.par s.ids f)) :=
  ⟨capAnswer_ne_three _, capAnswer_eq_one.mp, capAnswer_eq_two.mp⟩

section keeps

variable {s t : State}

/-- The invariant is about seven fields only. -/
theorem State.Inv.of_eq (hs : s.Inv) (hpar : t.par = s.par) (hids : t.ids = s.ids) (hbuf : t.buf = s.buf)
    (hstatus : t.status = s.status) (hcaps : t.caps = s.caps) (hginited : t.ginited = s.ginited) : t.Inv where
  bufWf := hbuf ▸ hs.bufWf
  bufRange := by rw [hbuf, hpar]; exact hs.bufRange
  statusReserved := hstatus ▸ hs.statusReserved
  statusCode := hstatus ▸ hs.statusCode
  statusSource := by rw [hstatus]; exact hs.statusSource
  capsReserved := hcaps ▸ hs.capsReserved
  capsCell := by rw [hcaps]; exact hs.capsCell
  capsSupported := by rw [hcaps, hpar, hids]; exact hs.capsSupported
  capsUnsupported := by rw [hcaps, hpar, hids]; exact hs.capsUnsupported
  ginitedReserved := hginited ▸ hs.ginitedReserved

theorem State.Inv.setStatus (hs : s.Inv) {c : Code} {src : Source} (hsrc : src ≠ .none → c = .ok) :
    (s.setStatus c src).Inv :=
  { hs with
    statusReserved := statusWord_reserved c src
    statusCode := by rw [State.setStatus_status, codeField_statusWord]; exact c.bits_le
    statusSource := by
      rw [State.setStatus_status, codeField_statusWord, srcField_statusWord]
      intro h
      rw [hsrc fun hn => h (by rw [hn]; rfl)]
      rfl }

theorem State.Inv.cellOk (hs : s.Inv) (f : Feature) : CellOk s f (capCell s.caps f) :=
  ⟨hs.capsCell f, hs.capsSupported f, hs.capsUnsupported f⟩

theorem State.Inv.afterCap (hs : s.Inv) (f : Feature) : (s.afterCap f).Inv := by
  have hcell : ∀ g, CellOk s g (capCell (s.afterCap f).caps g) := by
    intro g
    by_cases hg : g = f ∧ capCell s.caps f = 0
    · obtain ⟨rfl, h0⟩ := hg
      rw [State.capCell_afterCap_unknown h0]
      exact cellOk_capAnswer s g
    · have hsame : capCell (s.afterCap f).caps g = capCell s.caps g := by
        by_cases hgf : g = f
        · subst hgf; exact State.capCell_afterCap_known fun h0 => hg ⟨rfl, h0⟩
        · exact State.capCell_afterCap_ne hgf
      rw [hsame]
      exact hs.cellOk g
  have hres := State.afterCap_reserved f s
  rw [State.afterCap_eq]
  exact { hs with
    capsReserved := hres.trans hs.capsReserved
    capsCell := fun g => (hcell g).ne_three
    capsSupported := fun g => (hcell g).supported
    capsUnsupported := fun g => (hcell g).unsupported }

theorem State.Inv.withGinited (hs : s.Inv) {x : U64} (hx : x.extractLsb' 4 60 = s.ginited.extractLsb' 4 60) :
    { s with ginited := x }.Inv :=
  { hs with ginitedReserved := hx.trans hs.ginitedReserved }

theorem State.Inv.writes {i : Instr} (hs : s.Inv) (w : Writes i s t) : t.Inv := by
  cases w with
  | status c src hsrc => exact hs.setStatus hsrc
  | cap f _ => exact hs.afterCap f
  | init v seed _ =>
    have hf : (s.initFile v seed).Inv := by apply hs.of_eq <;> simp
    exact hf.withGinited (setInited_reserved _ v)
  | adopt v _ _ => exact hs.withGinited (setInited_reserved _ v)
  | _ => apply hs.of_eq <;> simp

theorem State.Inv.runs {i : Instr} (hs : s.Inv) (h : Runs i s t) : t.Inv := h.keeps (fun _ _ w ha => ha.writes w) hs

theorem State.Inv.commandStep (hs : s.Inv) {w : U64} (h : commandStep w s = .next t) : t.Inv := by
  rcases commandStep_cases h with ⟨i, _, he⟩ | ⟨_, rfl⟩ | ⟨_, _, _, rfl⟩
  · exact hs.runs (exec_runs he)
  · exact hs.setStatus fun hne => absurd rfl hne
  · exact hs.of_eq rfl rfl rfl rfl rfl rfl

theorem State.Inv.writeReg (hs : s.Inv) (x : U64) (r : Reg) : (s.writeReg x r).Inv := by
  have hg : (s.writeReg x r).ginited.extractLsb' 4 60 = s.ginited.extractLsb' 4 60 := by
    rcases s.writeReg_generators x r with ⟨h, _⟩ | ⟨v, h, _⟩ <;> rw [h]
    exact clearInited_reserved _ v
  have hu := hs.withGinited hg
  apply hu.of_eq <;> simp

theorem State.Inv.writeBuf (hs : s.Inv) {a n : Nat} (h : a + n ≤ s.par.bufBytes) (v : U64) :
    { s with buf := s.buf.write a n v }.Inv :=
  { hs with
    bufWf := Memory.wf_write hs.bufWf a n v
    bufRange := fun c hc => by
      rcases Memory.mem_write hc with hin | hold
      · dsimp only; omega
      · exact hs.bufRange c hold }

theorem State.Inv.hostWrite (hs : s.Inv) (off n : Nat) (v : U64) : (s.hostWrite off n v).Inv := by
  rcases s.hostWrite_cases off n v with ⟨r, e⟩ | ⟨r, e⟩ | ⟨a, ha, e⟩ <;> rw [e]
  · exact hs.of_eq rfl rfl rfl rfl rfl rfl
  · exact (hs.writeReg v r).of_eq rfl rfl rfl rfl rfl rfl
  · exact (hs.writeBuf ha v).of_eq rfl rfl rfl rfl rfl rfl

end keeps

theorem State.inv_resetBlock (ids : Ids) (s : State) : (s.resetBlock ids).Inv :=
  (State.inv_resetWith s.par ids).of_eq rfl rfl rfl rfl rfl rfl

/-- Settles O53, by the cases of a step. -/
theorem everyStepKeepsTheInvariant : Obligations.EveryStepKeepsTheInvariant := by
  intro s t hs h
  rcases step_cases h with ⟨_, rfl⟩ | ⟨_, ⟨_, rfl⟩ | ⟨ids, rest, _, rfl⟩ | ⟨w, n, ids, rest, _, rfl⟩ |
    ⟨off, n, rest, _, rfl⟩ | ⟨off, n, v, rest, _, _, rfl⟩ | ⟨w, rest, _, hc⟩⟩
  · rcases s.whileHeld_cases with ⟨ids, rest, _, e⟩ | ⟨_, e⟩ <;> rw [e]
    · exact State.inv_resetBlock ids _
    · exact hs
  · exact hs
  · exact State.inv_resetBlock ids _
  · exact State.inv_resetBlock ids _
  · obtain ⟨r, e⟩ := State.hostRead_cases { s with port := rest } off n
    rw [e]
    exact hs.of_eq rfl rfl rfl rfl rfl rfl
  · have hp : { s with port := rest }.Inv := hs.of_eq rfl rfl rfl rfl rfl rfl
    exact hp.hostWrite off n v
  · have hu : { s with port := rest, cmd := w, resp := .accepted }.Inv := hs.of_eq rfl rfl rfl rfl rfl rfl
    exact hu.commandStep hc

/-! ### Cached cells -/

theorem Runs.capCell_known {i : Instr} {s t : State} {f : Feature} (h : Runs i s t) (hf : capCell s.caps f ≠ 0) :
    capCell t.caps f = capCell s.caps f := by
  refine h.keeps (P := fun u => capCell u.caps f = capCell s.caps f) (fun a b w ha => ?_) rfl
  cases w with
  | cap g _ => exact (State.capCell_afterCap_known (ha ▸ hf)).trans ha
  | _ => simpa using ha

theorem commandStep_capCell_known {w : U64} {s t : State} {f : Feature} (h : commandStep w s = .next t)
    (hf : capCell s.caps f ≠ 0) : capCell t.caps f = capCell s.caps f := by
  rcases commandStep_cases h with ⟨i, _, he⟩ | ⟨_, rfl⟩ | ⟨_, _, _, rfl⟩
  · exact (exec_runs he).capCell_known hf
  · rfl
  · rfl

theorem State.hostWrite_caps (s : State) (off n : Nat) (v : U64) : (s.hostWrite off n v).caps = s.caps := by
  rcases s.hostWrite_cases off n v with ⟨r, e⟩ | ⟨r, e⟩ | ⟨a, _, e⟩ <;> rw [e]
  exact State.writeReg_caps s v r

theorem State.whileHeld_of_no_reset {s : State} (h : ∀ e ∈ s.port, e.resetIds = none) : s.whileHeld = s := by
  rcases takeReset_cases s.port with ⟨e, _⟩ | ⟨a, e, b, ids, hp, _, he, _⟩
  · rw [State.whileHeld, e]
  · have := h e (by simp [hp])
    simp [he] at this

/-- Settles O48, by the cases of a step: without a reset only a command writes `CAPS`. -/
theorem cachedCapabilitiesAreFrozen : Obligations.CachedCapabilitiesAreFrozen := by
  intro s t f h hidle hheld hf
  rcases step_cases h with ⟨hh, rfl⟩ | ⟨hh, ⟨_, rfl⟩ | ⟨ids, rest, hp, rfl⟩ | ⟨w, n, ids, rest, hp, rfl⟩ |
    ⟨off, n, rest, _, rfl⟩ | ⟨off, n, v, rest, _, _, rfl⟩ | ⟨w, rest, _, hc⟩⟩
  · rw [State.whileHeld_of_no_reset (hheld hh)]
  · rfl
  · exact absurd (hidle hh _ rest hp) (by simp [HostEvent.resetIds])
  · exact absurd (hidle hh _ rest hp) (by simp [HostEvent.resetIds])
  · obtain ⟨r, e⟩ := State.hostRead_cases { s with port := rest } off n
    rw [e]
  · rw [State.hostWrite_caps]
  · exact commandStep_capCell_known (s := { s with port := rest, cmd := w, resp := .accepted }) hc hf

end Sys2Proof.Machine
end

section
/-!
PROOF. A host write of a generator's state word (10_state.md R33, 20_memory.md R61).
-/

namespace Sys2Proof.Machine

open Sys2Proof

/-- An aligned 8-byte write of a register other than `CMD` writes that register, and is accepted. -/
theorem step_writeReg {s : State} {off : Nat} {v : U64} {rest : List HostEvent} {r : Reg} (hh : s.held = false)
    (hp : s.port = .write off 8 v :: rest) (hoff : regAccessOk off 8 = true) (hr : regAt off = some r)
    (hc : r ≠ .cmd) : step s = .next { ({ s with port := rest }.writeReg v r) with resp := .accepted } := by
  have hcmd : isCmdAccess off 8 = false := by simp [isCmdAccess, hr, hc]
  have hlt : off < bufBase := by
    simp only [regAccessOk, Bool.and_eq_true, decide_eq_true_eq] at hoff
    exact hoff.1.1
  rw [step_write hh hp hcmd, State.hostWrite_accepted (by simp [hoff]), State.storeData, if_pos hlt, hr]

/-- Settles O11: each of the 14 offsets names its word in the address map. -/
theorem stateWordWritesClearGinited : Obligations.StateWordWritesClearGinited := by
  intro s off v rest hh hp
  have write : ∀ r, regAccessOk off 8 = true → regAt off = some r → r ≠ .cmd →
      step s = .next { ({ s with port := rest }.writeReg v r) with resp := .accepted } :=
    fun _ => step_writeReg hh hp
  refine ⟨⟨?_, ?_, ?_, ?_⟩, ⟨?_, ?_, ?_, ?_⟩, ⟨?_, ?_, ?_, ?_⟩, ⟨?_, ?_⟩⟩ <;> rintro rfl
  · exact write (.g32 0) rfl rfl (by decide)
  · exact write (.g32 1) rfl rfl (by decide)
  · exact write (.g32 2) rfl rfl (by decide)
  · exact write (.g32 3) rfl rfl (by decide)
  · exact write (.g64 0) rfl rfl (by decide)
  · exact write (.g64 1) rfl rfl (by decide)
  · exact write (.g64 2) rfl rfl (by decide)
  · exact write (.g64 3) rfl rfl (by decide)
  · exact write (.gf 0) rfl rfl (by decide)
  · exact write (.gf 1) rfl rfl (by decide)
  · exact write (.gf 2) rfl rfl (by decide)
  · exact write (.gf 3) rfl rfl (by decide)
  · exact write (.gd 0) rfl rfl (by decide)
  · exact write (.gd 1) rfl rfl (by decide)

end Sys2Proof.Machine
end

section
/-!
PROOF. A word that decodes is the word of the command it decodes to (30_encoding.md R93, R94).
-/

namespace Sys2Proof.Machine

open Sys2Proof

theorem variantOf_number (x : BitVec 2) : (variantOf x).number = x := by revert x; decide

theorem featureOf_number {x : BitVec 2} {f : Feature} (h : featureOf x = some f) : f.number = x := by
  revert x f; decide

theorem plainCommand_eq_some {x : BitVec 2} {i k : Instr} : plainCommand x i = some k ↔ x = 0 ∧ i = k := by
  unfold plainCommand; split <;> simp_all

/-- `i` is named by opcode `op` and selector `x`. -/
def NamedBy (op : BitVec 8) (x : BitVec 2) (i : Instr) : Prop := i.opcode = op ∧ i.selector = x

theorem namedBy_of_ite {op c : BitVec 8} {x : BitVec 2} {i : Instr} {a b : Option Instr}
    (ha : a = some i → NamedBy c x i) (hb : b = some i → NamedBy op x i)
    (h : (if op = c then a else b) = some i) : NamedBy op x i := by
  by_cases hc : op = c
  · rw [if_pos hc] at h; subst hc; exact ha h
  · rw [if_neg hc] at h; exact hb h

theorem namedBy_of_plain {c : BitVec 8} {x : BitVec 2} {i k : Instr} (hc : k.opcode = c) (hk : k.selector = 0)
    (h : plainCommand x k = some i) : NamedBy c x i := by
  obtain ⟨rfl, rfl⟩ := plainCommand_eq_some.mp h
  exact ⟨hc, hk⟩

theorem namedBy_of_some {c : BitVec 8} {x : BitVec 2} {i k : Instr} (hc : k.opcode = c) (hk : k.selector = x)
    (h : some k = some i) : NamedBy c x i := by
  cases h; exact ⟨hc, hk⟩

/-- Each row of the opcode table gives a command that its opcode and its selector name (30_encoding.md R93). -/
theorem commandOf_eq_some {op : BitVec 8} {x : BitVec 2} {i : Instr} : commandOf op x = some i → NamedBy op x i := by
  unfold commandOf
  iterate 12 refine namedBy_of_ite (namedBy_of_plain rfl rfl) ?_
  iterate 7 refine namedBy_of_ite (namedBy_of_some rfl (variantOf_number x)) ?_
  refine namedBy_of_ite (fun h => ?_) ?_
  · obtain ⟨f, hf, rfl⟩ := Option.map_eq_some_iff.mp h
    exact ⟨rfl, featureOf_number hf⟩
  iterate 3 refine namedBy_of_ite (namedBy_of_plain rfl rfl) ?_
  intro h
  cases h

/-- A word with `RSV` = 0 is its two other fields (30_encoding.md R90). -/
theorem word_of_fields {w : U64} (h : rsvField w = 0) :
    (opField w).setWidth 64 ||| ((vField w).setWidth 64 <<< 8) = w := by
  refine BitVec.eq_of_getLsbD_eq fun j hj => ?_
  have hr : 10 ≤ j → w.getLsbD j = false := by
    intro hj10
    have hb := congrArg (fun y => y.getLsbD (j - 10)) h
    have he : 10 + (j - 10) = j := by omega
    have hlt : j - 10 < 54 := by omega
    simpa [rsvField, he, hlt] using hb
  simp only [opField, vField, BitVec.getLsbD_or, BitVec.getLsbD_shiftLeft, BitVec.getLsbD_setWidth,
    BitVec.getLsbD_extractLsb', hj, decide_true, Bool.true_and, Nat.zero_add]
  by_cases h8 : j < 8
  · simp [h8]
  · have he : 8 + (j - 8) = j := by omega
    by_cases h10 : j < 10
    · have h2 : j - 8 < 2 := by omega
      have h64 : j - 8 < 64 := by omega
      simp [h8, h2, h64, he]
    · have h2 : ¬ j - 8 < 2 := by omega
      simp [h8, h2, hr (by omega)]

theorem encode_of_decodeWord {w : U64} {i : Instr} (h : decodeWord w = some i) : encode i = w := by
  unfold decodeWord at h
  split at h
  · rename_i hrsv
    obtain ⟨hop, hsel⟩ := commandOf_eq_some (Option.mem_filter_iff.mp h).1
    rw [encode, hop, hsel]
    exact word_of_fields hrsv
  · cases h

end Sys2Proof.Machine
end

section
/-!
PROOF. The invariant of initialised generators: the update of a file is invertible, so it takes no nonzero file to
zero, and the guard of `GINIT` makes none (10_state.md R32, 42_prng.md R173, R175, R178).
-/

namespace Sys2Proof.Machine

open Sys2Proof

/-! ### The word operations lose nothing -/

/-- A rotation by less than the width keeps every bit. -/
theorem rotl_eq_zero {w r : Nat} {x : BitVec w} (hr : r < w) (h : rotl x r = 0#w) : x = 0#w := by
  obtain ⟨hl, hh⟩ := BitVec.or_eq_zero_iff.mp h
  refine BitVec.eq_of_getLsbD_eq fun i hi => ?_
  by_cases hir : i + r < w
  · have hb := congrArg (fun y => y.getLsbD (i + r)) hl
    simpa [hir, hi, BitVec.getLsbD_eq_getElem] using hb
  · have hb := congrArg (fun y => y.getLsbD (i - (w - r))) hh
    have he : w - r + (i - (w - r)) = i := by omega
    simpa [he] using hb

/-- A word that agrees with itself shifted up is 0: each bit is 0 because the ones below it are. -/
theorem eq_zero_of_xor_shiftLeft {w a : Nat} {x : BitVec w} (ha : 0 < a) (h : x ^^^ (x <<< a) = 0#w) : x = 0#w := by
  have he : x = x <<< a := BitVec.xor_eq_zero_iff.mp h
  have hbit : ∀ i, x.getLsbD i = false := by
    intro i
    induction i using Nat.strong_induction_on with
    | _ i ih =>
      rw [he, BitVec.getLsbD_shiftLeft]
      by_cases hi : i < a
      · simp [hi]
      · simp [ih (i - a) (by omega)]
  exact BitVec.eq_of_getLsbD_eq fun i _ => by simp [hbit i]

/-! ### No update takes a nonzero file to zero -/

theorem lin4_eq_zero {w a b : Nat} {f : Quad w} (ha : 0 < a) (hb : b < w) (h : lin4 a b f = ⟨0, 0, 0, 0⟩) :
    f = ⟨0, 0, 0, 0⟩ := by
  obtain ⟨x0, x1, x2, x3⟩ := f
  simp only [lin4, Quad.mk.injEq] at h
  obtain ⟨h0, h1, h2, h3⟩ := h
  have h31 : x3 ^^^ x1 = 0#w := rotl_eq_zero hb h3
  have e0 : x0 = 0#w := by simpa [h31] using h0
  have e12 : x1 ^^^ x2 = 0#w := by simpa [e0] using h1
  have e1 : x1 = x2 := BitVec.xor_eq_zero_iff.mp e12
  have e2 : x2 = 0#w := eq_zero_of_xor_shiftLeft ha (by simpa [e0, e1] using h2)
  have e3 : x3 = 0#w := by simpa [e1, e2] using h31
  simp [e0, e1, e2, e3]

theorem stepGd_eq_zero {p : Params} {f : Duo} (ha : p.gdRotA < 64) (hb : p.gdRotB < 64)
    (h : (stepGd p f).2 = ⟨0, 0⟩) : f = ⟨0, 0⟩ := by
  obtain ⟨x0, x1⟩ := f
  simp only [stepGd, Duo.mk.injEq] at h
  obtain ⟨h0, h1⟩ := h
  have h10 : x1 ^^^ x0 = 0#64 := rotl_eq_zero hb h1
  have e0 : x0 = 0#64 := rotl_eq_zero ha (by simpa [h10] using h0)
  have e1 : x1 = 0#64 := by simpa [e0] using h10
  simp [e0, e1]

/-! ### The guard of `GINIT` -/

theorem guardQuad_ne_zero {w : Nat} {phi : BitVec w} (h : phi ≠ 0) (f : Quad w) :
    guardQuad phi f ≠ ⟨0, 0, 0, 0⟩ := by
  unfold guardQuad
  split
  · exact fun hz => h (congrArg Quad.w0 hz)
  · assumption

theorem guardDuo_ne_zero {phi : U64} (h : phi ≠ 0) (f : Duo) : guardDuo phi f ≠ ⟨0, 0⟩ := by
  unfold guardDuo
  split
  · exact fun hz => h (congrArg Duo.w0 hz)
  · assumption

/-- The ranges of `Params.wf` that the generators need. -/
structure GeneratorRanges (p : Params) : Prop where
  phi32 : p.phi32 ≠ 0
  phi64 : p.phi64 ≠ 0
  g32Shift : 0 < p.g32Shift
  g32Rot : p.g32Rot < 32
  g64Shift : 0 < p.g64Shift
  g64Rot : p.g64Rot < 64
  gdRotA : p.gdRotA < 64
  gdRotB : p.gdRotB < 64

theorem generatorRanges_of_wf {p : Params} (h : p.wf = true) : GeneratorRanges p := by
  simp only [Params.wf, amountOk, Bool.and_eq_true, decide_eq_true_eq, bne_iff_ne] at h
  constructor <;> tauto

/-! ### Zero files in the state -/

theorem State.SameFile.fileZero {v : Variant} {s t : State} (h : s.SameFile v t) : t.fileZero v = s.fileZero v := by
  cases v <;> exact congrArg (· == _) h

theorem State.fileZero_advance {s : State} (hp : GeneratorRanges s.par) {v : Variant} (h : s.fileZero v = false) :
    (s.advance v).fileZero v = false := by
  cases v with
  | g32 =>
    simp only [State.fileZero, beq_eq_false_iff_ne] at h ⊢
    exact fun hz => h (lin4_eq_zero hp.g32Shift hp.g32Rot hz)
  | g64 =>
    simp only [State.fileZero, beq_eq_false_iff_ne] at h ⊢
    exact fun hz => h (lin4_eq_zero hp.g64Shift hp.g64Rot hz)
  | gf =>
    simp only [State.fileZero, beq_eq_false_iff_ne] at h ⊢
    exact fun hz => h (lin4_eq_zero hp.g32Shift hp.g32Rot hz)
  | gd =>
    simp only [State.fileZero, beq_eq_false_iff_ne] at h ⊢
    exact fun hz => h (stepGd_eq_zero hp.gdRotA hp.gdRotB hz)

theorem State.fileZero_initFile {s : State} (hp : GeneratorRanges s.par) (v : Variant) (seed : U64) :
    (s.initFile v seed).fileZero v = false := by
  cases v <;> simp only [State.fileZero, beq_eq_false_iff_ne]
  · exact guardQuad_ne_zero hp.phi32 _
  · exact guardQuad_ne_zero hp.phi64 _
  · exact guardQuad_ne_zero hp.phi32 _
  · exact guardDuo_ne_zero hp.phi64 _

/-! ### What keeps the invariant -/

section keeps

variable {s t : State}

/-- Outside file `v`, no file has changed and none is newly initialised; file `v`, where it is initialised, is not
zero. -/
theorem State.GeneratorsNonzero.of_elsewhere (hs : s.GeneratorsNonzero) (v : Variant)
    (hfile : ∀ u, u ≠ v → s.SameFile u t)
    (hinit : ∀ u, u ≠ v → isInited t.ginited u = true → isInited s.ginited u = true)
    (hv : isInited t.ginited v = true → t.fileZero v = false) : t.GeneratorsNonzero := by
  intro u hu
  by_cases huv : u = v
  · subst huv; exact hv hu
  · rw [(hfile u huv).fileZero]; exact hs u (hinit u huv hu)

theorem State.GeneratorsNonzero.of_same (hs : s.GeneratorsNonzero) (hfile : ∀ u, s.SameFile u t)
    (hinit : t.ginited = s.ginited) : t.GeneratorsNonzero := by
  intro u hu
  rw [(hfile u).fileZero]
  exact hs u (hinit ▸ hu)

/-- A change of no file and not of `GINITED`. -/
theorem State.GeneratorsNonzero.of_eq (hs : s.GeneratorsNonzero) (h32 : t.g32 = s.g32) (h64 : t.g64 = s.g64)
    (hf : t.gf = s.gf) (hd : t.gd = s.gd) (hinit : t.ginited = s.ginited) : t.GeneratorsNonzero :=
  hs.of_same (fun u => State.sameFile_of_eq u h32 h64 hf hd) hinit

theorem State.GeneratorsNonzero.advance (hs : s.GeneratorsNonzero) (hp : GeneratorRanges s.par) (v : Variant) :
    (s.advance v).GeneratorsNonzero :=
  hs.of_elsewhere v (fun _ hu => State.sameFile_advance hu.symm s) (fun _ _ h => by simpa using h)
    fun h => State.fileZero_advance hp (hs v (by simpa using h))

/-- Marking a nonzero file initialised keeps the invariant. -/
theorem State.GeneratorsNonzero.markInited (hs : s.GeneratorsNonzero) {v : Variant} (hz : s.fileZero v = false) :
    (s.markInited v).GeneratorsNonzero :=
  hs.of_elsewhere v (fun u _ => State.sameFile_markInited v u s)
    (fun u hu h => by simpa [isInited_setInited, hu] using h)
    fun _ => (State.sameFile_markInited v v s).fileZero.trans hz

theorem State.GeneratorsNonzero.initFile (hs : s.GeneratorsNonzero) (hp : GeneratorRanges s.par) (v : Variant)
    (seed : U64) : (s.initFile v seed).GeneratorsNonzero :=
  hs.of_elsewhere v (fun _ hu => State.sameFile_initFile hu.symm s seed) (fun _ _ h => by simpa using h)
    fun _ => State.fileZero_initFile hp v seed

/-- Every write of a command but a jump keeps the invariant. -/
theorem State.GeneratorsNonzero.writes {i : Instr} (hs : s.GeneratorsNonzero) (hp : GeneratorRanges s.par)
    (hi : ∀ v, i ≠ .gjump v) (w : Writes i s t) : t.GeneratorsNonzero := by
  cases w with
  | advance v _ => exact hs.advance hp v
  | jump v hv => exact absurd hv (hi v)
  | init v seed _ => exact (hs.initFile hp v seed).markInited (State.fileZero_initFile hp v seed)
  | adopt v _ hz => exact hs.markInited hz
  | _ => apply hs.of_eq <;> simp

theorem State.GeneratorsNonzero.runs {i : Instr} (hs : s.GeneratorsNonzero) (hp : GeneratorRanges s.par)
    (hi : ∀ v, i ≠ .gjump v) (h : Runs i s t) : t.GeneratorsNonzero := by
  have hboth : GeneratorRanges t.par ∧ t.GeneratorsNonzero := by
    refine h.keeps (P := fun u => GeneratorRanges u.par ∧ u.GeneratorsNonzero) (fun a b w ha => ?_) ⟨hp, hs⟩
    obtain ⟨hpa, hsa⟩ := ha
    exact ⟨w.sameRest.par ▸ hpa, hsa.writes hpa hi w⟩
  exact hboth.2

theorem State.GeneratorsNonzero.gjump (hs : s.GeneratorsNonzero) {v : Variant}
    (hz : isInited s.ginited v = true → (s.jumpFile v).fileZero v = false) (h : exec (.gjump v) s = .next t) :
    t.GeneratorsNonzero := by
  have hn := needsInit_cases v s fun u => .next (u.jumpFile v).succeed
  rcases hn with ⟨hv, e⟩ | ⟨_, e⟩
  · cases e.symm.trans h
    have hj : (s.jumpFile v).GeneratorsNonzero :=
      hs.of_elsewhere v (fun _ hu => State.sameFile_jumpFile hu.symm s) (fun _ _ h => by simpa using h) fun _ => hz hv
    exact hj.of_eq rfl rfl rfl rfl rfl
  · cases e.symm.trans h
    exact hs.of_eq rfl rfl rfl rfl rfl

theorem State.GeneratorsNonzero.exec (hs : s.GeneratorsNonzero) (hp : GeneratorRanges s.par) {i : Instr}
    (hz : ∀ v, i = .gjump v → isInited s.ginited v = true → (s.jumpFile v).fileZero v = false)
    (h : exec i s = .next t) : t.GeneratorsNonzero := by
  by_cases hi : ∃ v, i = .gjump v
  · obtain ⟨v, rfl⟩ := hi
    exact hs.gjump (hz v rfl) h
  · exact hs.runs hp (not_exists.mp hi) (exec_runs h)

theorem State.GeneratorsNonzero.commandStep (hs : s.GeneratorsNonzero) (hp : GeneratorRanges s.par) {w : U64}
    (hz : ∀ v, decodeWord w = some (.gjump v) → isInited s.ginited v = true → (s.jumpFile v).fileZero v = false)
    (h : commandStep w s = .next t) : t.GeneratorsNonzero := by
  rcases commandStep_cases h with ⟨i, hd, he⟩ | ⟨_, rfl⟩ | ⟨_, _, _, rfl⟩
  · exact hs.exec hp (fun v hv => hz v (hv ▸ hd)) he
  · exact hs.of_eq rfl rfl rfl rfl rfl
  · exact hs.of_eq rfl rfl rfl rfl rfl

/-- A host write of a state word takes the file it touches out of the invariant (10_state.md R33). -/
theorem State.GeneratorsNonzero.writeReg (hs : s.GeneratorsNonzero) (x : U64) (r : Reg) :
    (s.writeReg x r).GeneratorsNonzero := by
  rcases s.writeReg_generators x r with ⟨hg, hfile⟩ | ⟨v, hg, hfile⟩
  · exact hs.of_same hfile hg
  · refine hs.of_elsewhere v hfile (fun u hu h => ?_) fun h => ?_
    · simpa [hg, isInited_clearInited, hu] using h
    · simp [hg, isInited_clearInited] at h

theorem State.GeneratorsNonzero.hostWrite (hs : s.GeneratorsNonzero) (off n : Nat) (v : U64) :
    (s.hostWrite off n v).GeneratorsNonzero := by
  rcases s.hostWrite_cases off n v with ⟨r, e⟩ | ⟨r, e⟩ | ⟨a, _, e⟩ <;> rw [e]
  · exact hs.of_eq rfl rfl rfl rfl rfl
  · exact (hs.writeReg v r).of_eq rfl rfl rfl rfl rfl
  · exact hs.of_eq rfl rfl rfl rfl rfl

end keeps

theorem State.generatorsNonzero_resetBlock (ids : Ids) (s : State) : (s.resetBlock ids).GeneratorsNonzero :=
  State.generatorsNonzero_of_ginited_zero rfl

/-- Settles O55, by the cases of a step. -/
theorem everyStepKeepsGeneratorsNonzero : Obligations.EveryStepKeepsGeneratorsNonzero := by
  intro s t hwf hs hjump h
  have hp := generatorRanges_of_wf hwf
  rcases step_cases h with ⟨_, rfl⟩ | ⟨_, ⟨_, rfl⟩ | ⟨ids, rest, _, rfl⟩ | ⟨w, n, ids, rest, _, rfl⟩ |
    ⟨off, n, rest, _, rfl⟩ | ⟨off, n, v, rest, _, _, rfl⟩ | ⟨w, rest, hport, hc⟩⟩
  · rcases s.whileHeld_cases with ⟨ids, rest, _, e⟩ | ⟨_, e⟩ <;> rw [e]
    · exact State.generatorsNonzero_resetBlock ids _
    · exact hs
  · exact hs
  · exact State.generatorsNonzero_resetBlock ids _
  · exact State.generatorsNonzero_resetBlock ids _
  · obtain ⟨r, e⟩ := State.hostRead_cases { s with port := rest } off n
    rw [e]
    exact hs.of_eq rfl rfl rfl rfl rfl
  · have hu : { s with port := rest }.GeneratorsNonzero := hs.of_eq rfl rfl rfl rfl rfl
    exact hu.hostWrite off n v
  · have hu : { s with port := rest, cmd := w, resp := .accepted }.GeneratorsNonzero := hs.of_eq rfl rfl rfl rfl rfl
    refine hu.commandStep hp (fun v hd hv => ?_) hc
    have hz := hjump v rest (by rw [hport, encode_of_decodeWord hd]) hv
    have hsame : (s.jumpFile v).SameFile v ({ s with port := rest, cmd := w, resp := .accepted }.jumpFile v) := by
      apply State.sameFile_of_eq <;> simp
    exact hsame.fileZero.trans hz

end Sys2Proof.Machine
end

section
/-!
PROOF. The events that wait at the port have no part in what the event taken from it does (20_memory.md R67, R69).
-/

namespace Sys2Proof.Machine

open Sys2Proof

/-- `s` with the events `p` at the port. -/
def State.withPort (p : List HostEvent) (s : State) : State := { s with port := p }

/-- The same outcome, with the events `p` at the port of the next state. -/
def carryPort (p : List HostEvent) : Host.Outcome State Fault Refusal → Host.Outcome State Fault Refusal
  | .next t => .next (t.withPort p)
  | .fault r => .fault r
  | .refused r => .refused r

section port

variable {p : List HostEvent} {s : State}

/-! ### The gates -/

theorem State.afterCap_withPort (f : Feature) : (s.withPort p).afterCap f = (s.afterCap f).withPort p := by
  symm
  exact apply_ite (State.withPort p) _ _ _

theorem State.capAvailable_withPort (f : Feature) : (s.withPort p).capAvailable f = s.capAvailable f := by
  unfold State.capAvailable; rw [State.afterCap_withPort]; rfl

/-- What a command does where `cap(f)` answers yes, and where it answers no. -/
theorem capGate_withPort {f : Feature} {yes no : State → State}
    (hyes : yes ((s.afterCap f).withPort p) = (yes (s.afterCap f)).withPort p)
    (hno : no ((s.afterCap f).withPort p) = (no (s.afterCap f)).withPort p) :
    (if (s.withPort p).capAvailable f then yes ((s.withPort p).afterCap f) else no ((s.withPort p).afterCap f)) =
      (if s.capAvailable f then yes (s.afterCap f) else no (s.afterCap f)).withPort p := by
  rw [State.capAvailable_withPort, State.afterCap_withPort, hyes, hno, apply_ite (State.withPort p)]

theorem gatedByCrc_withPort {body : State → State}
    (hb : body ((s.afterCap .crc).withPort p) = (body (s.afterCap .crc)).withPort p) :
    gatedByCrc (s.withPort p) body = (gatedByCrc s body).withPort p :=
  capGate_withPort (yes := body) (no := fun t => t.raise .unavail) hb rfl

theorem needsInit_withPort {v : Variant} {body : State → Host.Outcome State Fault Refusal}
    (hb : body (s.withPort p) = carryPort p (body s)) :
    needsInit v (s.withPort p) body = carryPort p (needsInit v s body) := by
  unfold needsInit
  rw [hb]
  symm
  exact apply_ite (carryPort p) _ _ _

/-! ### The commands -/

theorem crcCommand_withPort (n : Nat) : crcCommand n (s.withPort p) = (crcCommand n s).withPort p :=
  gatedByCrc_withPort rfl

theorem hashCommand_withPort {w : Nat} {h : State → Nat → Nat → BitVec w}
    (hh : ∀ t u : State, t.par = u.par → (∀ a, t.bufByte a = u.bufByte a) → h t = h u) :
    hashCommand h (s.withPort p) = (hashCommand h s).withPort p := by
  refine gatedByCrc_withPort ?_
  rw [hh ((s.afterCap .crc).withPort p) (s.afterCap .crc) rfl (State.bufByte_congr rfl rfl)]
  symm
  exact apply_ite (State.withPort p) _ _ _

theorem State.sampleG32_withPort (min limit : U32) :
    (s.withPort p).sampleG32 min limit = carryPort p (s.sampleG32 min limit) := by
  simp only [State.sampleG32, State.withPort]
  split <;> rfl

theorem State.sampleG64_withPort (min limit : U64) :
    (s.withPort p).sampleG64 min limit = carryPort p (s.sampleG64 min limit) := by
  simp only [State.sampleG64, State.withPort]
  split <;> rfl

theorem execGnext_withPort (v : Variant) : execGnext v (s.withPort p) = carryPort p (execGnext v s) := by
  refine needsInit_withPort ?_
  cases v <;> rfl

theorem State.jumpFile_withPort (v : Variant) : (s.withPort p).jumpFile v = (s.jumpFile v).withPort p := by
  cases v <;> simp only [State.jumpFile, State.withPort]

theorem execGjump_withPort (v : Variant) : execGjump v (s.withPort p) = carryPort p (execGjump v s) := by
  refine needsInit_withPort ?_
  rw [State.jumpFile_withPort]; rfl

theorem execGunif_withPort (v : Variant) : execGunif v (s.withPort p) = carryPort p (execGunif v s) := by
  cases v with
  | g32 | g64 => rfl
  | gf | gd =>
    simp only [execGunif]
    exact needsInit_withPort rfl

/-- A sampler draws only where its precondition holds. -/
theorem precondition_withPort {c : Prop} [Decidable c] {sample : State → Host.Outcome State Fault Refusal}
    (h : sample (s.withPort p) = carryPort p (sample s)) :
    (if c then .next ((s.withPort p).raise .precond) else sample (s.withPort p)) =
      carryPort p (if c then .next (s.raise .precond) else sample s) := by
  rw [h, apply_ite (carryPort p)]; rfl

theorem execGbound_withPort (v : Variant) : execGbound v (s.withPort p) = carryPort p (execGbound v s) := by
  cases v with
  | g32 =>
    simp only [execGbound]
    exact needsInit_withPort (precondition_withPort (State.sampleG32_withPort 0 (s.opaLow 32)))
  | g64 =>
    simp only [execGbound]
    exact needsInit_withPort (precondition_withPort (State.sampleG64_withPort 0 (s.opaLow 64)))
  | gf | gd => rfl

theorem execGrange_withPort (v : Variant) : execGrange v (s.withPort p) = carryPort p (execGrange v s) := by
  cases v with
  | g32 =>
    simp only [execGrange]
    exact needsInit_withPort (precondition_withPort (State.sampleG32_withPort (s.opaLow 32) _))
  | g64 =>
    simp only [execGrange]
    exact needsInit_withPort (precondition_withPort (State.sampleG64_withPort (s.opaLow 64) _))
  | gf | gd => rfl

theorem execGadopt_withPort (v : Variant) : execGadopt v (s.withPort p) = carryPort p (execGadopt v s) := by
  have hz : (s.withPort p).fileZero v = s.fileZero v := by cases v <;> rfl
  unfold execGadopt
  rw [hz]
  split <;> rfl

theorem State.tryFast_withPort : (s.withPort p).tryFast = s.tryFast.withPort p := by
  have ha : (s.withPort p).acquireFast = s.acquireFast := rfl
  simp only [State.tryFast, State.deliverFast, ha]
  split <;> rfl

theorem State.tryEnt_withPort : (s.withPort p).tryEnt = s.tryEnt.withPort p := by
  have ha : (s.withPort p).acquireEnt = s.acquireEnt := rfl
  simp only [State.tryEnt, State.deliverEnt, ha]
  split <;> rfl

theorem execTryfast_withPort : execTryfast (s.withPort p) = carryPort p (execTryfast s) :=
  congrArg Host.Outcome.next
    (capGate_withPort (f := .fast) (yes := State.tryFast) (no := fun t => t.raise .unavail) State.tryFast_withPort rfl)

theorem execTryent_withPort : execTryent (s.withPort p) = carryPort p (execTryent s) :=
  congrArg Host.Outcome.next
    (capGate_withPort (f := .ent) (yes := State.tryEnt) (no := fun t => t.raise .unavail) State.tryEnt_withPort rfl)

theorem State.seedFromFast_withPort : (s.withPort p).seedFromFast = s.seedFromFast.withPort p := by
  have ha : ((s.afterCap .fast).withPort p).acquireFast = (s.afterCap .fast).acquireFast := rfl
  unfold State.seedFromFast
  rw [State.capAvailable_withPort, State.afterCap_withPort, ha]
  split
  · split <;> rfl
  · rfl

theorem State.seedFromEnt_withPort : (s.withPort p).seedFromEnt = s.seedFromEnt.withPort p := by
  have ha : ((s.afterCap .ent).withPort p).acquireEnt = (s.afterCap .ent).acquireEnt := rfl
  unfold State.seedFromEnt
  rw [State.capAvailable_withPort, State.afterCap_withPort, ha]
  split
  · split
    · rfl
    · exact State.seedFromFast_withPort (s := { s.afterCap .ent with ent := (s.afterCap .ent).acquireEnt.2 })
  · exact State.seedFromFast_withPort

/-- No command reads or changes the port. -/
theorem exec_withPort (i : Instr) : exec i (s.withPort p) = carryPort p (exec i s) := by
  cases i with
  | nop | mix32 | mix64 | comb32 | comb64 | sxnext => rfl
  | crc8 | crc16 | crc32 | crc64 => exact congrArg Host.Outcome.next (crcCommand_withPort _)
  | hash32 => exact congrArg Host.Outcome.next (hashCommand_withPort fun _ _ => hash32_congr)
  | hash64 => exact congrArg Host.Outcome.next (hashCommand_withPort fun _ _ => hash64_congr)
  | ginit v => cases v <;> rfl
  | gnext v => exact execGnext_withPort v
  | gjump v => exact execGjump_withPort v
  | gunif v => exact execGunif_withPort v
  | gbound v => exact execGbound_withPort v
  | grange v => exact execGrange_withPort v
  | gadopt v => exact execGadopt_withPort v
  | capq f =>
    simp only [exec, execCapq, State.capAvailable_withPort, State.afterCap_withPort]
    rfl
  | tryfast => exact execTryfast_withPort
  | tryent => exact execTryent_withPort
  | autoseed => exact congrArg Host.Outcome.next State.seedFromEnt_withPort

/-! ### The events -/

theorem runCommand_withPort (w : U64) : runCommand w (s.withPort p) = carryPort p (runCommand w s) := by
  cases hd : decodeWord w with
  | none => rw [runCommand_of_illegal hd, runCommand_of_illegal hd]; rfl
  | some i => rw [runCommand_of_decode hd, runCommand_of_decode hd, exec_withPort]

theorem commandStep_withPort (w : U64) : commandStep w (s.withPort p) = carryPort p (commandStep w s) := by
  unfold commandStep
  rw [runCommand_withPort]
  cases runCommand w s with
  | next t => rfl
  | fault r => cases r; rfl
  | refused r => rfl

theorem State.abandonCommand_withPort (w : U64) (n : Nat) :
    (s.withPort p).abandonCommand w n = (s.abandonCommand w n).withPort p := by
  unfold State.abandonCommand
  rw [runCommand_withPort]
  cases runCommand w s <;> rfl

theorem State.readData_withPort (off n : Nat) : (s.withPort p).readData off n = s.readData off n := by
  have hm : (s.withPort p).memRead (off - bufBase) n = s.memRead (off - bufBase) n :=
    State.memRead_congr fun b _ _ => State.bufByte_congr rfl rfl b
  have hr : ∀ r, (s.withPort p).readReg r = s.readReg r := fun r => by cases r <;> rfl
  simp only [State.readData, hm, hr]

theorem State.hostRead_withPort (off n : Nat) : (s.withPort p).hostRead off n = (s.hostRead off n).withPort p := by
  simp only [State.hostRead, State.readData_withPort]
  symm
  exact apply_ite (State.withPort p) _ _ _

theorem State.storeData_withPort (off n : Nat) (v : U64) :
    (s.withPort p).storeData off n v = (s.storeData off n v).withPort p := by
  have hw : ∀ r, (s.withPort p).writeReg v r = (s.writeReg v r).withPort p := fun r => by cases r <;> rfl
  unfold State.storeData
  split
  · cases regAt off with
    | none => rfl
    | some r => exact hw r
  · rfl

theorem State.hostWrite_withPort (off n : Nat) (v : U64) :
    (s.withPort p).hostWrite off n v = (s.hostWrite off n v).withPort p := by
  simp only [State.hostWrite, State.storeData_withPort]
  symm
  exact apply_ite (State.withPort p) _ _ _

/-- What an event does neither reads nor changes the events that wait. -/
theorem perform_withPort (e : HostEvent) : perform e (s.withPort p) = carryPort p (perform e s) := by
  cases e with
  | reset ids => rfl
  | abandon w n ids => simp only [perform, State.abandonCommand_withPort]; rfl
  | read off n => simp only [perform, State.hostRead_withPort]; rfl
  | write off n v =>
    simp only [perform, State.hostWrite_withPort, commandStep_withPort]
    symm
    exact apply_ite (carryPort p) _ _ _

end port

/-- Settles O7: the event is performed without the others, whatever they are. -/
theorem accessesArePerformedInOrder : Obligations.AccessesArePerformedInOrder := by
  intro s
  have waits : s.held = true → (∀ e ∈ s.port, e.resetIds = none) → step s = .next s := fun hh hp => by
    rw [step_held hh, State.whileHeld_of_no_reset hp]
  refine ⟨fun hp => ?_, waits, fun e rest t hh hp ht => ?_⟩
  · cases hh : s.held
    · exact step_idle hh hp
    · exact waits hh (by simp [hp])
  · have he : perform e { s with port := rest } = .next t := (step_cons hh hp).symm.trans ht
    have carried : ∀ q, perform e { s with port := q } = .next (t.withPort q) := fun q =>
      (perform_withPort (s := { s with port := rest }) e).trans (congrArg (carryPort q) he)
    have hport : t = t.withPort rest := Host.Outcome.next.inj (he.symm.trans (carried rest))
    refine ⟨congrArg State.port hport, fun more => ?_⟩
    exact (step_cons (s := { s with port := e :: (rest ++ more) }) hh rfl).trans (carried (rest ++ more))

end Sys2Proof.Machine
end

section
/-!
PROOF. What each access of the window is refused or accepted for, what a read of a register returns and what a write of
one stores (20_memory.md R61 to R64, R68).
-/

namespace Sys2Proof.Machine

open Sys2Proof

theorem regAccessOk_iff (off n : Nat) : regAccessOk off n = true ↔ off < 0x1000 ∧ n = 8 ∧ 8 ∣ off := by
  simp only [regAccessOk, Bool.and_eq_true, decide_eq_true_eq, Nat.dvd_iff_mod_eq_zero, and_assoc]
  rfl

theorem bufAccessOk_iff (p : Params) (off n : Nat) : bufAccessOk p off n = true ↔
    0x1000 ≤ off ∧ off + n ≤ 0x1000 + p.bufBytes ∧ (n = 1 ∨ n = 2 ∨ n = 4 ∨ n = 8) ∧ n ∣ off := by
  simp only [bufAccessOk, Bool.and_eq_true, decide_eq_true_eq, Nat.dvd_iff_mod_eq_zero, and_assoc]
  rfl

theorem step_read {s : State} {off n : Nat} {rest : List HostEvent} (hh : s.held = false)
    (hp : s.port = .read off n :: rest) : step s = .next ({ s with port := rest }.hostRead off n) :=
  step_cons hh hp

/-- Settles O8: neither region accepts the access, so it is no write of `CMD` either. -/
theorem refusedAccessIsABusError : Obligations.RefusedAccessIsABusError := by
  intro s off n v rest hh hreg hbuf
  have hr : regAccessOk off n = false := Bool.eq_false_iff.mpr (mt (regAccessOk_iff off n).mp hreg)
  have hb : bufAccessOk s.par off n = false := Bool.eq_false_iff.mpr (mt (bufAccessOk_iff s.par off n).mp hbuf)
  have hno : (regAccessOk off n || bufAccessOk s.par off n) = false := by simp [hr, hb]
  have hc : isCmdAccess off n = false := by simp [isCmdAccess, hr]
  exact ⟨fun hp => (step_read hh hp).trans (congrArg _ (State.hostRead_refused hno)),
    fun hp => (step_write hh hp hc).trans (congrArg _ (State.hostWrite_refused hno))⟩

/-! ### Reads of the register region -/

/-- What a read returns where the address map names `r`, 0 where it names nothing (20_memory.md R64). -/
def State.readEntry (s : State) : Option Reg → U64
  | some r => s.readReg r
  | none => 0

theorem State.readData_register (s : State) {off n : Nat} (h : off < bufBase) :
    s.readData off n = s.readEntry (regAt off) := by
  rw [State.readData, if_pos h]
  cases regAt off <;> rfl

/-- A read looks the offset up row by row. -/
theorem State.readEntry_find_cons (s : State) (off a : Nat) (r : Reg) (m : List (Nat × Reg)) :
    s.readEntry ((((a, r) :: m).find? fun e => e.1 == off).map Prod.snd) =
      if off = a then s.readReg r else s.readEntry ((m.find? fun e => e.1 == off).map Prod.snd) := by
  by_cases h : off = a
  · simp [h, State.readEntry]
  · simp [h, Ne.symm h]

/-- Settles O9: the address map, row by row. -/
theorem registerReadsFollowTheMap : Obligations.RegisterReadsFollowTheMap := by
  intro s off rest hh hp hlt hdvd
  have hok : regAccessOk off 8 = true := (regAccessOk_iff off 8).mpr ⟨hlt, rfl, hdvd⟩
  rw [step_read hh hp, State.hostRead_accepted (by simp [hok]), State.readData_register _ hlt]
  simp only [regAt, regMap, State.readEntry_find_cons]
  rfl

/-! ### Writes of the register region -/

/-- The registers a host write does not change (20_memory.md R61). -/
def readOnlyRegs : List Reg := [.status, .res0, .res1, .caps, .ginited]

theorem State.writeReg_readOnly {r : Reg} (h : r ∈ readOnlyRegs) (s : State) (v : U64) : s.writeReg v r = s := by
  simp only [readOnlyRegs, List.mem_cons, List.not_mem_nil, or_false] at h
  rcases h with rfl | rfl | rfl | rfl | rfl <;> rfl

theorem mem_regMap_of_regAt {off : Nat} {r : Reg} (h : regAt off = some r) : (off, r) ∈ regMap := by
  obtain ⟨e, he, rfl⟩ := Option.map_eq_some_iff.mp h
  have hoff : e.1 = off := by simpa using List.find?_some he
  exact hoff ▸ List.mem_of_find?_eq_some he

/-- The rows of the address map outside `CMD`, the operands, `SXACC` and the state words are read-only. -/
theorem regMap_readOnly : ∀ e ∈ regMap, e.1 ∉ [0x000, 0x010, 0x018, 0x040] → ¬ (0x100 ≤ e.1 ∧ e.1 ≤ 0x168) →
    e.2 ∈ readOnlyRegs := by
  decide

/-- A write of a read-only register or of a reserved offset stores nothing (20_memory.md R64). -/
theorem State.storeData_ignored {off : Nat} (hlt : off < bufBase) (hr : ∀ r, regAt off = some r → r ∈ readOnlyRegs)
    (s : State) (n : Nat) (v : U64) : s.storeData off n v = s := by
  rw [State.storeData, if_pos hlt]
  cases h : regAt off with
  | none => rfl
  | some r => exact State.writeReg_readOnly (hr r h) s v

/-- Settles O10: three rows of the address map store, and the rows left are read-only. -/
theorem registerWritesStoreOrAreIgnored : Obligations.RegisterWritesStoreOrAreIgnored := by
  intro s off v rest hh hp hlt hdvd
  have hok : regAccessOk off 8 = true := (regAccessOk_iff off 8).mpr ⟨hlt, rfl, hdvd⟩
  have write : ∀ r, regAt off = some r → r ≠ .cmd →
      step s = .next { ({ s with port := rest }.writeReg v r) with resp := .accepted } :=
    fun _ => step_writeReg hh hp hok
  refine ⟨?_, ?_, ?_, fun h0 h10 h18 h40 hwords => ?_⟩
  · rintro rfl; exact write .opa rfl (by decide)
  · rintro rfl; exact write .opb rfl (by decide)
  · rintro rfl; exact write .sxacc rfl (by decide)
  · have hc : isCmdAccess off 8 = false := Bool.eq_false_iff.mpr fun h => h0 ((isCmdAccess_iff off 8).mp h).1
    have hro : ∀ r, regAt off = some r → r ∈ readOnlyRegs := fun r hr =>
      regMap_readOnly _ (mem_regMap_of_regAt hr) (by simp [h0, h10, h18, h40]) hwords
    rw [step_write hh hp hc, State.hostWrite_accepted (by simp [hok]), State.storeData_ignored hlt hro]

end Sys2Proof.Machine
end

section
/-!
PROOF. Host accesses of the buffer, byte by byte (20_memory.md R62, R65).
-/

namespace Sys2Proof.Machine

open Sys2Proof

/-! ### The value of a read -/

theorem State.memRead_succ_toNat {s : State} {a n : Nat} (h : (s.memRead (a + 1) n).toNat < 2 ^ 56) :
    (s.memRead a (n + 1)).toNat = (s.bufByte a).toNat + (s.memRead (a + 1) n).toNat * 2 ^ 8 := by
  have hbyte : (s.bufByte a).toNat < 2 ^ 8 := (s.bufByte a).isLt
  have hshift : (s.memRead (a + 1) n <<< 8).toNat = (s.memRead (a + 1) n).toNat <<< 8 := by
    rw [BitVec.toNat_shiftLeft, Nat.mod_eq_of_lt]
    rw [Nat.shiftLeft_eq]; omega
  rw [State.memRead_succ, BitVec.toNat_or, hshift, BitVec.toNat_setWidth, Nat.mod_eq_of_lt (by omega), Nat.or_comm,
    ← Nat.shiftLeft_add_eq_or_of_lt hbyte, Nat.shiftLeft_eq, Nat.add_comm]

theorem State.memRead_lt (s : State) (a : Nat) {n : Nat} (hn : n ≤ 8) : (s.memRead a n).toNat < 2 ^ (8 * n) := by
  induction n generalizing a with
  | zero => simp
  | succ n ih =>
    have hrest : (s.memRead (a + 1) n).toNat < 2 ^ (8 * n) := ih (a + 1) (by omega)
    have hpow : 2 ^ (8 * n) ≤ 2 ^ 56 := Nat.pow_le_pow_right (by omega) (by omega)
    have hbyte : (s.bufByte a).toNat < 2 ^ 8 := (s.bufByte a).isLt
    rw [State.memRead_succ_toNat (by omega), Nat.mul_succ, Nat.pow_add]
    omega

/-- A read of at most 8 bytes is the sum of the bytes, each at its weight (20_memory.md R65). -/
theorem State.memRead_toNat (s : State) (a : Nat) {n : Nat} (hn : n ≤ 8) :
    (s.memRead a n).toNat = ∑ i ∈ Finset.range n, (s.bufByte (a + i)).toNat * 2 ^ (8 * i) := by
  induction n generalizing a with
  | zero => simp
  | succ n ih =>
    have hlt : (s.memRead (a + 1) n).toNat < 2 ^ 56 :=
      (s.memRead_lt (a + 1) (by omega)).trans_le (Nat.pow_le_pow_right (by omega) (by omega))
    rw [State.memRead_succ_toNat hlt, ih (a + 1) (by omega), Finset.sum_range_succ', Finset.sum_mul, Nat.add_comm]
    congr 1
    · refine Finset.sum_congr rfl fun i _ => ?_
      rw [Nat.mul_succ, Nat.pow_add, Nat.mul_assoc, Nat.add_assoc, Nat.add_comm 1 i]
    · simp

/-! ### The bytes a write leaves -/

theorem State.bufByte_write (s : State) (a n : Nat) (v : U64) (b : Nat) :
    { s with buf := s.buf.write a n v }.bufByte b =
      if a ≤ b ∧ b < a + n then v.extractLsb' (8 * (b - a)) 8 else s.bufByte b := by
  rw [State.bufByte, Memory.get?_write]
  split <;> rfl

/-! ### The accesses of the buffer region -/

section access

variable {s : State} {a n : Nat} {v : U64} {rest : List HostEvent}

theorem bufAccessOk_of_aligned {p : Params} (hn : n = 1 ∨ n = 2 ∨ n = 4 ∨ n = 8) (hdvd : n ∣ a)
    (ha : a + n ≤ p.bufBytes) : bufAccessOk p (0x1000 + a) n = true := by
  have hbase : n ∣ 0x1000 := by rcases hn with rfl | rfl | rfl | rfl <;> decide
  exact (bufAccessOk_iff p _ n).mpr ⟨by omega, by omega, hn, hbase.add hdvd⟩

theorem step_readBuf (hh : s.held = false) (hok : bufAccessOk s.par (0x1000 + a) n = true)
    (hp : s.port = .read (0x1000 + a) n :: rest) :
    step s = .next { s with port := rest, resp := .data (s.memRead a n) } := by
  have hread : State.readData { s with port := rest } (0x1000 + a) n = s.memRead a n := by
    rw [State.readData, if_neg (by simp [bufBase])]
    simp only [bufBase, Nat.add_sub_cancel_left]
    exact State.memRead_congr fun b _ _ => State.bufByte_congr rfl rfl b
  rw [step_read hh hp, State.hostRead_accepted (by simp [hok]), hread]

theorem step_writeBuf (hh : s.held = false) (hok : bufAccessOk s.par (0x1000 + a) n = true)
    (hp : s.port = .write (0x1000 + a) n v :: rest) :
    step s = .next { s with port := rest, resp := .accepted, buf := s.buf.write a n v } := by
  have hc : isCmdAccess (0x1000 + a) n = false :=
    Bool.eq_false_iff.mpr fun h => by have := ((isCmdAccess_iff _ n).mp h).1; omega
  have hstore : State.storeData { s with port := rest } (0x1000 + a) n v =
      { s with port := rest, buf := s.buf.write a n v } := by
    rw [State.storeData, if_neg (by simp [bufBase])]
    simp only [bufBase, Nat.add_sub_cancel_left]
  rw [step_write hh hp hc, State.hostWrite_accepted (by simp [hok]), hstore]

end access

/-- Settles O12: a write is `Memory.write` and a read `memRead`, at the access's own offset. -/
theorem bufferAccessesAreLittleEndian : Obligations.BufferAccessesAreLittleEndian := by
  intro s a n v rest hh hn hdvd ha
  have hok : bufAccessOk s.par (0x1000 + a) n = true := bufAccessOk_of_aligned hn hdvd ha
  refine ⟨fun hp => ⟨_, step_writeBuf hh hok hp, rfl, fun i hi => ?_, fun b hb => ?_⟩,
    fun hp => ⟨_, step_readBuf hh hok hp, s.memRead_toNat a (by omega)⟩⟩
  · exact (s.bufByte_write a n v (a + i)).trans (by rw [if_pos (by omega), Nat.add_sub_cancel_left])
  · exact (s.bufByte_write a n v b).trans (if_neg (by omega))

end Sys2Proof.Machine
end

section
/-!
PROOF. The decoder is the inverse of the encoder on the commands of the opcode table, the words that decode are the
table's, and a word outside it ends `ILLEGAL` (30_encoding.md R90 to R96).
-/

namespace Sys2Proof.Machine

open Sys2Proof

/-! ### Encoding, then decoding -/

theorem variantOf_number_eq_self (v : Variant) : variantOf v.number = v := by cases v <;> rfl

theorem featureOf_number_eq_some (f : Feature) : featureOf f.number = some f := by cases f <;> rfl

/-- The shape of the command word, for every command (30_encoding.md R90, R94). -/
theorem wordShape (i : Instr) : Laws.WordShape.Statement i := by
  cases i with
  | nop => exact Laws.WordShape.nop
  | mix32 => exact Laws.WordShape.mix32
  | mix64 => exact Laws.WordShape.mix64
  | comb32 => exact Laws.WordShape.comb32
  | comb64 => exact Laws.WordShape.comb64
  | sxnext => exact Laws.WordShape.sxnext
  | crc8 => exact Laws.WordShape.crc8
  | crc16 => exact Laws.WordShape.crc16
  | crc32 => exact Laws.WordShape.crc32
  | crc64 => exact Laws.WordShape.crc64
  | hash32 => exact Laws.WordShape.hash32
  | hash64 => exact Laws.WordShape.hash64
  | ginit v => exact Laws.WordShape.ginit v
  | gnext v => exact Laws.WordShape.gnext v
  | gjump v => exact Laws.WordShape.gjump v
  | gunif v => exact Laws.WordShape.gunif v
  | gbound v => exact Laws.WordShape.gbound v
  | grange v => exact Laws.WordShape.grange v
  | gadopt v => exact Laws.WordShape.gadopt v
  | capq f => exact Laws.WordShape.capq f
  | tryfast => exact Laws.WordShape.tryfast
  | tryent => exact Laws.WordShape.tryent
  | autoseed => exact Laws.WordShape.autoseed

/-- A command's row of the opcode table, at the command's selector, is the command (30_encoding.md R93). -/
theorem commandOf_opcode_selector (i : Instr) : commandOf i.opcode i.selector = some i := by
  cases i with
  | ginit v => exact congrArg (some ∘ Instr.ginit) (variantOf_number_eq_self v)
  | gnext v => exact congrArg (some ∘ Instr.gnext) (variantOf_number_eq_self v)
  | gjump v => exact congrArg (some ∘ Instr.gjump) (variantOf_number_eq_self v)
  | gunif v => exact congrArg (some ∘ Instr.gunif) (variantOf_number_eq_self v)
  | gbound v => exact congrArg (some ∘ Instr.gbound) (variantOf_number_eq_self v)
  | grange v => exact congrArg (some ∘ Instr.grange) (variantOf_number_eq_self v)
  | gadopt v => exact congrArg (some ∘ Instr.gadopt) (variantOf_number_eq_self v)
  | capq f => exact congrArg (Option.map Instr.capq) (featureOf_number_eq_some f)
  | nop | mix32 | mix64 | comb32 | comb64 | sxnext => rfl
  | crc8 | crc16 | crc32 | crc64 | hash32 | hash64 => rfl
  | tryfast | tryent | autoseed => rfl

theorem decodeWord_encode {i : Instr} (hi : i.wellFormed = true) : decodeWord (encode i) = some i := by
  obtain ⟨hop, hsel, hrsv⟩ := wordShape i
  rw [decodeWord, if_pos hrsv, hop, hsel, commandOf_opcode_selector, Option.filter_some, if_pos hi]

/-! ### Decoding, then encoding -/

theorem wellFormed_of_decodeWord {w : U64} {i : Instr} (h : decodeWord w = some i) : i.wellFormed = true := by
  unfold decodeWord at h
  split at h
  · exact (Option.mem_filter_iff.mp h).2
  · cases h

theorem decodeWord_eq_some_iff {w : U64} {i : Instr} :
    decodeWord w = some i ↔ i.wellFormed = true ∧ encode i = w := by
  constructor
  · exact fun h => ⟨wellFormed_of_decodeWord h, encode_of_decodeWord h⟩
  · rintro ⟨hi, rfl⟩
    exact decodeWord_encode hi

/-- Settles O1. -/
theorem decodeIsExactlyTheInverseOfEncode : Obligations.DecodeIsExactlyTheInverseOfEncode :=
  fun _ _ => decodeWord_eq_some_iff

/-! ### The words of the opcode table -/

/-- The four variants, in the order of their numbers. -/
def allVariants : List Variant := [.g32, .g64, .gf, .gd]

theorem mem_allVariants (v : Variant) : v ∈ allVariants := by cases v <;> decide

/-- The commands of the opcode table, row by row, each with its legal selectors in ascending order. -/
def tableCommands : List Instr :=
  [.nop, .mix32, .mix64, .comb32, .comb64, .sxnext, .crc8, .crc16, .crc32, .crc64, .hash32, .hash64] ++
    allVariants.map .ginit ++ allVariants.map .gnext ++ allVariants.map .gjump ++
    (allVariants.filter Variant.isFloat).map .gunif ++ (allVariants.filter Variant.isInteger).map .gbound ++
    (allVariants.filter Variant.isInteger).map .grange ++ allVariants.map .gadopt ++
    [.capq .crc, .capq .fast, .capq .ent, .tryfast, .tryent, .autoseed]

theorem mem_tableCommands {i : Instr} : i ∈ tableCommands ↔ i.wellFormed = true := by
  cases i with
  | capq f => cases f <;> simp [tableCommands, Instr.wellFormed]
  | _ => simp [tableCommands, Instr.wellFormed, mem_allVariants]

theorem map_encode_tableCommands : tableCommands.map encode = legalWords := by decide

/-- The table's words are the words of the well-formed commands. -/
theorem mem_legalWords {w : U64} : w ∈ legalWords ↔ ∃ i : Instr, i.wellFormed = true ∧ encode i = w := by
  simp only [← map_encode_tableCommands, List.mem_map, mem_tableCommands]

theorem isSome_decodeWord_iff {w : U64} : (decodeWord w).isSome = true ↔ w ∈ legalWords := by
  simp only [Option.isSome_iff_exists, decodeWord_eq_some_iff, mem_legalWords]

/-- Settles O2: both sides say that `w` is the word of a well-formed command. -/
theorem legalWordsAreTheTablesForty : Obligations.LegalWordsAreTheTablesForty := fun _ => isSome_decodeWord_iff

theorem decodeWord_of_notMem {w : U64} (hw : w ∉ legalWords) : decodeWord w = none :=
  Option.not_isSome_iff_eq_none.mp (mt isSome_decodeWord_iff.mp hw)

/-- Settles O3: the legal words are encodings, the others stand outside the table. -/
theorem writtenOutWordsDecode : Obligations.WrittenOutWordsDecode :=
  ⟨decodeWord_encode (i := .gnext .g64) rfl, decodeWord_encode (i := .gunif .gd) rfl,
    decodeWord_encode (i := .grange .g64) rfl, decodeWord_encode (i := .capq .ent) rfl,
    decodeWord_encode (i := .hash64) rfl, decodeWord_of_notMem (by decide), decodeWord_of_notMem (by decide),
    decodeWord_of_notMem (by decide)⟩

/-! ### A write of `CMD` with an illegal word -/

theorem commandStep_of_illegal {w : U64} (hd : decodeWord w = none) (s : State) :
    commandStep w s = .next (s.raise .illegal) := by
  rw [commandStep, runCommand_of_illegal hd]

/-- `CODE` = `ILLEGAL` and `SRC` = 0 (10_state.md R25). -/
theorem State.raise_illegal (s : State) : s.raise .illegal = { s with status := 5 } := rfl

/-- Settles O5: a word outside the table does not decode. -/
theorem illegalWordRaisesIllegal : Obligations.IllegalWordRaisesIllegal := by
  intro s w rest hh hp hw
  rw [step_cmd hh hp, commandStep_of_illegal (decodeWord_of_notMem hw), State.raise_illegal]

end Sys2Proof.Machine
end

section
/-!
PROOF. The mixers, the combiner and the seed expander: what each command delivers, that the mixers lose nothing, and
the accumulator's orbit (40_mixer.md R122 to R129).
-/

namespace Sys2Proof.Machine

open Sys2Proof

/-! ### Multiplication by an odd number, and the bijectivity of the mixers -/

theorem coprime_two_pow_of_odd {w : Nat} {c : BitVec w} (hc : c.getLsbD 0 = true) : Nat.Coprime (2 ^ w) c.toNat := by
  have hodd : c.toNat % 2 = 1 := by simpa [BitVec.getLsbD, Nat.testBit_zero] using hc
  exact (Nat.coprime_two_left.mpr (Nat.odd_iff.mpr hodd)).pow_left w

/-- An odd number has an inverse modulo a power of two, so it cancels (40_mixer.md R124). -/
theorem mul_odd_injective {w : Nat} {c : BitVec w} (hc : c.getLsbD 0 = true) :
    Function.Injective fun x : BitVec w => x * c := by
  intro x y h
  have hmod : x.toNat * c.toNat ≡ y.toNat * c.toNat [MOD 2 ^ w] := by
    simpa only [BitVec.toNat_mul, Nat.ModEq] using congrArg BitVec.toNat h
  have hxy : x.toNat ≡ y.toNat [MOD 2 ^ w] := hmod.cancel_right_of_coprime (coprime_two_pow_of_odd hc)
  exact BitVec.eq_of_toNat_eq (hxy.eq_of_lt_of_lt x.isLt y.isLt)

@[simp] theorem xorShiftRight_zero {w : Nat} (n : Nat) : xorShiftRight 0#w n = 0#w := by simp [xorShiftRight]

theorem mix32_zero (p : Params) : mix32 p 0 = 0 := by simp [mix32]

theorem mix64_zero (p : Params) : mix64 p 0 = 0 := by simp [mix64]

/-- The five steps that both mixers share, at any width: no step loses anything (40_mixer.md R124). -/
theorem mix_steps_injective {w i j k : Nat} {c1 c2 : BitVec w} (hi : 0 < i) (hj : 0 < j) (hk : 0 < k)
    (h1 : c1.getLsbD 0 = true) (h2 : c2.getLsbD 0 = true) :
    Function.Injective fun x => xorShiftRight (xorShiftRight (xorShiftRight x i * c1) j * c2) k :=
  (xorShiftRight_injective hk).comp <| (mul_odd_injective h2).comp <| (xorShiftRight_injective hj).comp <|
    (mul_odd_injective h1).comp (xorShiftRight_injective hi)

theorem mix32_injective {p : Params} (h1 : p.mix32C1.getLsbD 0 = true) (h2 : p.mix32C2.getLsbD 0 = true) :
    Function.Injective (mix32 p) :=
  mix_steps_injective (by decide) (by decide) (by decide) h1 h2

theorem mix64_injective {p : Params} (h1 : p.mix64C1.getLsbD 0 = true) (h2 : p.mix64C2.getLsbD 0 = true) :
    Function.Injective (mix64 p) :=
  mix_steps_injective (by decide) (by decide) (by decide) h1 h2

/-- Settles O18: an injective function on finitely many words is a bijection. -/
theorem mixersFixZeroAndAreBijections : Obligations.MixersFixZeroAndAreBijections :=
  ⟨by decide, fun p => ⟨mix32_zero p, mix64_zero p,
    fun h1 h2 => Finite.injective_iff_bijective.mp (mix32_injective h1 h2),
    fun h1 h2 => Finite.injective_iff_bijective.mp (mix64_injective h1 h2)⟩⟩

/-! ### What each command of the family delivers -/

theorem State.withRes0_succeed {w : Nat} (s : State) (v : BitVec w) :
    (s.withRes0 v).succeed = { s with res0 := v.setWidth 64, status := 0 } := rfl

section exec

variable (s : State)

theorem exec_mix32 :
    exec .mix32 s = .next { s with res0 := (mix32 s.par (s.opa.setWidth 32)).setWidth 64, status := 0 } := rfl

theorem exec_mix64 : exec .mix64 s = .next { s with res0 := mix64 s.par s.opa, status := 0 } := by
  rw [exec, execMix64, State.withRes0_succeed, State.opaLow, BitVec.setWidth_eq, BitVec.setWidth_eq]

theorem exec_comb32 : exec .comb32 s = .next
    { s with res0 := (combine s.par.phi32 (s.opa.setWidth 32) (s.opb.setWidth 32)).setWidth 64, status := 0 } := rfl

theorem exec_comb64 :
    exec .comb64 s = .next { s with res0 := combine s.par.phi64 s.opa s.opb, status := 0 } := by
  rw [exec, execComb64, State.withRes0_succeed, State.opaLow, State.opbLow]
  simp only [BitVec.setWidth_eq]

theorem exec_sxnext : exec .sxnext s = .next
    { s with
      sxacc := s.sxacc + s.par.sexpInc, res0 := mix64 s.par (s.sxacc + s.par.sexpInc), status := 0 } := by
  rw [exec, execSxnext, State.withRes0_succeed, expandStep, BitVec.setWidth_eq]

end exec

/-! ### The mixer commands -/

/-- Settles O16: the command applies `mix32`, which fixes 0; the example is one closed call of it. -/
theorem mix32MixesTheLowHalf : Obligations.Mix32MixesTheLowHalf := by
  refine ⟨decodeWord_encode (i := .mix32) rfl, exec_mix32, fun s h => ?_, fun s hp ha => ?_⟩
  · rw [exec_mix32, h, mix32_zero]
    rfl
  · have hk : mix32 Params.candidate ((1 : U64).setWidth 32) = 0x688990C0 := by decide
    rw [exec_mix32, hp, ha, hk]
    rfl

/-- Settles O17: the command applies `mix64`, which fixes 0; the example is one closed call of it. -/
theorem mix64MixesTheOperand : Obligations.Mix64MixesTheOperand := by
  refine ⟨decodeWord_encode (i := .mix64) rfl, exec_mix64, fun s h => ?_, fun s hp ha => ?_⟩
  · rw [exec_mix64, h, mix64_zero]
  · have hk : mix64 Params.candidate 1 = 0x5692161D100B05E5 := by decide
    rw [exec_mix64, hp, ha, hk]

/-! ### The combiner commands -/

theorem combine_zero {w : Nat} (phi : BitVec w) : combine phi 0 0 = phi := by simp [combine]

/-- With known parameters and operands the two words are two closed calls of `combine`. -/
theorem exec_comb_of_operands {s : State} {a b x y : U64} (hp : s.par = Params.candidate) (ha : s.opa = a)
    (hb : s.opb = b) (hx : (combine Params.candidate.phi32 (a.setWidth 32) (b.setWidth 32)).setWidth 64 = x)
    (hy : combine Params.candidate.phi64 a b = y) :
    exec .comb32 s = .next { s with res0 := x, status := 0 } ∧
      exec .comb64 s = .next { s with res0 := y, status := 0 } := by
  rw [exec_comb32, exec_comb64, hp, ha, hb, hx, hy]
  exact ⟨rfl, rfl⟩

/-- Settles O19: each command applies `combine` at its width, and the examples are closed calls of it. -/
theorem combineFoldsSeedAndNext : Obligations.CombineFoldsSeedAndNext := by
  refine ⟨decodeWord_encode (i := .comb32) rfl, decodeWord_encode (i := .comb64) rfl, exec_comb32, exec_comb64,
    fun s ha hb => ⟨?_, ?_⟩, fun s hp => ⟨fun ha hb => ?_, fun ha hb => ?_, fun ha hb => ?_⟩⟩
  · have low : (0 : U64).setWidth 32 = (0 : U32) := rfl
    rw [exec_comb32, ha, hb, low, combine_zero]
  · rw [exec_comb64, ha, hb, combine_zero]
  all_goals exact exec_comb_of_operands hp ha hb (by decide) (by decide)

/-! ### The seed expander -/

/-- Settles O20: the word is 0 for the sum 0, and for no other where the mixer is injective. -/
theorem sxnextAddsThenMixes : Obligations.SxnextAddsThenMixes := by
  refine ⟨decodeWord_encode (i := .sxnext) rfl, exec_sxnext, fun s h1 h2 t ht => ?_,
    fun s hp => ⟨fun h => ?_, fun h => ?_⟩⟩
  · obtain rfl := Host.Outcome.next.inj ((exec_sxnext s).symm.trans ht)
    exact (mix64_injective h1 h2).eq_iff' (mix64_zero s.par)
  · have hsum : (0 : U64) + Params.candidate.sexpInc = 0x9E3779B97F4A7C15 := by decide
    have hmix : mix64 Params.candidate 0x9E3779B97F4A7C15 = 0xE220A8397B1DCDAF := by decide
    rw [exec_sxnext, hp, h, hsum, hmix]
  · have hsum : (0xDAA66D2C7DDF743F : U64) + Params.candidate.sexpInc = 0x78DDE6E5FD29F054 := by decide
    have hmix : mix64 Params.candidate 0x78DDE6E5FD29F054 = 0xF88BB8A8724C81EC := by decide
    rw [exec_sxnext, hp, h, hsum, hmix]

/-- The state after a write of the command word of `SXNEXT` (40_mixer.md R128), with `rest` left at the port. -/
def State.afterSxnext (rest : List HostEvent) (s : State) : State :=
  { s with
    port := rest, cmd := 0x05, resp := .accepted, sxacc := s.sxacc + s.par.sexpInc,
    res0 := mix64 s.par (s.sxacc + s.par.sexpInc), status := 0 }

theorem step_sxnext {s : State} {rest : List HostEvent} (hh : s.held = false) (hp : s.port = .write 0 8 0x05 :: rest) :
    step s = .next (s.afterSxnext rest) := by
  rw [step_cmd hh hp]
  exact commandStep_of_next (decodeWord_encode (i := .sxnext) rfl) (exec_sxnext _)

theorem run_succ_of_next {M : Host.Core} {s t : M.State} (h : M.step s = .next t) (n : Nat) :
    M.run (n + 1) s = M.run n t := by
  simp only [Host.Core.run, h]

theorem ofNat_succ_mul {w : Nat} (n : Nat) (x : BitVec w) :
    BitVec.ofNat w (n + 1) * x = x + BitVec.ofNat w n * x := by
  rw [BitVec.ofNat_add, BitVec.add_mul, BitVec.one_mul, BitVec.add_comm]

/-- The accumulator and the outputs along a run of `SXNEXT` commands (40_mixer.md R129). -/
theorem run_sxnext (n : Nat) {s : State} (hh : s.held = false)
    (hp : s.port = List.replicate (n + 1) (.write 0x000 8 0x05)) :
    ∃ t, Host.Core.run Sys2Proof.core (n + 1) s = .next t ∧
      t.sxacc = s.sxacc + BitVec.ofNat 64 (n + 1) * s.par.sexpInc ∧ t.res0 = mix64 s.par t.sxacc ∧ t.status = 0 := by
  induction n generalizing s with
  | zero => exact ⟨_, run_succ_of_next (M := Sys2Proof.core) (step_sxnext hh hp) 0, by simp [State.afterSxnext], rfl, rfl⟩
  | succ n ih =>
    have hs := step_sxnext hh (hp.trans List.replicate_succ)
    obtain ⟨t, hrun, hacc, hres, hst⟩ := ih (s := s.afterSxnext _) hh rfl
    refine ⟨t, (run_succ_of_next (M := Sys2Proof.core) hs (n + 1)).trans hrun, hacc.trans ?_, hres, hst⟩
    simp only [State.afterSxnext, ofNat_succ_mul (n + 1), BitVec.add_assoc]

/-- The multiples of an odd number are all the words (40_mixer.md R129). -/
theorem exists_multiple_of_odd {w : Nat} {c : BitVec w} (hc : c.getLsbD 0 = true) (y : BitVec w) :
    ∃ n, n < 2 ^ w ∧ BitVec.ofNat w n * c = y := by
  obtain ⟨x, hx⟩ := Finite.surjective_of_injective (mul_odd_injective hc) y
  exact ⟨x.toNat, x.isLt, by rw [BitVec.ofNat_toNat, BitVec.setWidth_eq]; exact hx⟩

/-- Settles O21: the run adds the increment once per command, and its multiples reach `x - seed`. -/
theorem expanderOutputsFollowTheAccumulator : Obligations.ExpanderOutputsFollowTheAccumulator := by
  refine ⟨fun s n hh hp => ?_, fun p hc seed x => ?_⟩
  · obtain ⟨t, hrun, hacc, hres, hst⟩ := run_sxnext n hh hp
    exact ⟨t, hrun, hacc, hacc ▸ hres, hst⟩
  · obtain ⟨n, hn, he⟩ := exists_multiple_of_odd hc (x - seed)
    exact ⟨n, hn, by rw [he, BitVec.add_comm, BitVec.sub_add_cancel]⟩

end Sys2Proof.Machine
end

section
/-!
PROOF. The divider and its laws, and the four commands that make one step of it (41_crc.md R140 to R146).
-/

namespace Sys2Proof.Machine

open Sys2Proof

/-! ### The divider, bit by bit and byte by byte -/

theorem crcBits_eq_iterate (poly : U32) (n : Nat) (c : U32) : crcBits poly n c = (crcBit poly)^[n] c := by
  induction n generalizing c with
  | zero => rfl
  | succ n ih => exact ih (crcBit poly c)

theorem extractLsb'_ushiftRight_byte {w : Nat} (v : BitVec w) (i : Nat) :
    (v >>> 8).extractLsb' (8 * i) 8 = v.extractLsb' (8 * (i + 1)) 8 := by
  rw [← BitVec.setWidth_ushiftRight_eq_extractLsb, ← BitVec.setWidth_ushiftRight_eq_extractLsb,
    ← BitVec.shiftRight_add, Nat.mul_succ, Nat.add_comm 8]

/-- A step divides its bytes one at a time, from the least significant on (41_crc.md R141). -/
theorem crcStep_eq_foldl (poly : U32) (n : Nat) (c : U32) (v : U64) : crcStep poly n c v =
    (List.range n).foldl (fun c i => crcByte poly c (v.extractLsb' (8 * i) 8)) c := by
  induction n generalizing c v with
  | zero => rfl
  | succ n ih =>
    have hlow : v.extractLsb' (8 * 0) 8 = v.setWidth 8 := (BitVec.setWidth_eq_extractLsb' (by decide)).symm
    rw [crcStep, ih, List.range_succ_eq_map, List.foldl_cons, List.foldl_map, hlow]
    simp only [extractLsb'_ushiftRight_byte, Nat.succ_eq_add_one]

/-- A step of `n` bytes reads the low `n` bytes of its operand only. -/
theorem crcStep_congr {n : Nat} {v w : U64} (h : ∀ i, i < n → v.extractLsb' (8 * i) 8 = w.extractLsb' (8 * i) 8)
    (poly c : U32) : crcStep poly n c v = crcStep poly n c w := by
  rw [crcStep_eq_foldl, crcStep_eq_foldl]
  exact List.foldl_ext _ _ c fun c i hi => by rw [h i (List.mem_range.mp hi)]

/-- Settles O22: a step is a fold over its bytes; the check value is one closed call of it. -/
theorem crcStepDividesByteByByte : Obligations.CrcStepDividesByteByByte :=
  ⟨fun poly c b => crcBits_eq_iterate poly 8 (c ^^^ b.setWidth 32), fun poly n c v _ => crcStep_eq_foldl poly n c v,
    by decide +kernel⟩

/-! ### The laws of the divider -/

/-- A wider step is a step of the low bytes and then one of the others (41_crc.md R142 (a)). -/
theorem crcStep_add (poly : U32) (m n : Nat) (c : U32) (v : U64) :
    crcStep poly (m + n) c v = crcStep poly n (crcStep poly m c v) (v >>> (8 * m)) := by
  induction m generalizing c v with
  | zero => rw [Nat.zero_add]; rfl
  | succ m ih => rw [Nat.succ_add, crcStep, ih, ← BitVec.shiftRight_add, Nat.mul_succ, Nat.add_comm 8, crcStep]

theorem crcBit_xor (poly c d : U32) : crcBit poly (c ^^^ d) = crcBit poly c ^^^ crcBit poly d := by
  simp only [crcBit, BitVec.getLsbD_xor, BitVec.ushiftRight_xor_distrib]
  cases c.getLsbD 0 <;> cases d.getLsbD 0
  case true.true =>
    calc c >>> 1 ^^^ d >>> 1
        = (c >>> 1 ^^^ d >>> 1) ^^^ (poly ^^^ poly) := by rw [BitVec.xor_self, BitVec.xor_zero]
      _ = (c >>> 1 ^^^ poly) ^^^ (d >>> 1 ^^^ poly) := by ac_rfl
  case true.false => exact show (c >>> 1 ^^^ d >>> 1) ^^^ poly = (c >>> 1 ^^^ poly) ^^^ d >>> 1 by ac_rfl
  case false.true => exact BitVec.xor_assoc ..
  case false.false => rfl

theorem crcBits_xor (poly : U32) (n : Nat) (c d : U32) :
    crcBits poly n (c ^^^ d) = crcBits poly n c ^^^ crcBits poly n d := by
  induction n generalizing c d with
  | zero => rfl
  | succ n ih => rw [crcBits, crcBit_xor, ih, crcBits, crcBits]

theorem crcByte_xor (poly c d : U32) (a b : Byte) :
    crcByte poly (c ^^^ d) (a ^^^ b) = crcByte poly c a ^^^ crcByte poly d b := by
  have hswap : c ^^^ d ^^^ (a.setWidth 32 ^^^ b.setWidth 32) = (c ^^^ a.setWidth 32) ^^^ (d ^^^ b.setWidth 32) := by
    ac_rfl
  rw [crcByte, BitVec.setWidth_xor, hswap, crcBits_xor, crcByte, crcByte]

/-- A step is linear over exclusive or (41_crc.md R142 (d)). -/
theorem crcStep_xor (poly : U32) (n : Nat) (c d : U32) (v w : U64) :
    crcStep poly n (c ^^^ d) (v ^^^ w) = crcStep poly n c v ^^^ crcStep poly n d w := by
  induction n generalizing c d v w with
  | zero => rfl
  | succ n ih => rw [crcStep, BitVec.setWidth_xor, crcByte_xor, BitVec.ushiftRight_xor_distrib, ih, crcStep, crcStep]

theorem crcStep_zero (poly : U32) (n : Nat) : crcStep poly n 0 0 = 0 := by
  simpa using crcStep_xor poly n 0 0 0 0

/-- While the bits shifted out are 0 the divider only shifts. -/
theorem crcBits_eq_shift (poly : U32) (n : Nat) {c : U32} (h : ∀ i, i < n → c.getLsbD i = false) :
    crcBits poly n c = c >>> n := by
  induction n generalizing c with
  | zero => rfl
  | succ n ih =>
    have hbit : crcBit poly c = c >>> 1 := by rw [crcBit, h 0 (by omega)]; rfl
    have hrest : ∀ i, i < n → (c >>> 1).getLsbD i = false := fun i hi => by
      rw [BitVec.getLsbD_ushiftRight, Nat.add_comm]
      exact h (i + 1) (by omega)
    rw [crcBits, hbit, ih hrest, ← BitVec.shiftRight_add, Nat.add_comm]

/-- A register divided by its own low byte is shifted by a byte. -/
theorem crcByte_low (poly c : U32) : crcByte poly c (c.setWidth 8) = c >>> 8 := by
  have hlow : ∀ i, i < 8 → (c ^^^ (c.setWidth 8).setWidth 32).getLsbD i = false := fun i hi => by
    have : i < 32 := by omega
    simp [hi, this]
  rw [crcByte, crcBits_eq_shift poly 8 hlow]
  ext i hi
  simp

/-- A register divided by its own `n` bytes is 0: each byte step takes the byte the register shifts out. -/
theorem crcStep_self (poly : U32) {n : Nat} (hn : n ≤ 4) {v : U64} (hv : v.toNat < 2 ^ (8 * n)) :
    crcStep poly n (v.setWidth 32) v = 0 := by
  induction n generalizing v with
  | zero =>
    have hzero : v = 0 := BitVec.eq_of_toNat_eq (by simpa using hv)
    rw [hzero]
    rfl
  | succ n ih =>
    have hlt : v.toNat < 2 ^ 32 := hv.trans_le (Nat.pow_le_pow_right (by omega) (by omega))
    have hlow : v.setWidth 8 = (v.setWidth 32).setWidth 8 := by simp
    have hshift : v.setWidth 32 >>> 8 = (v >>> 8).setWidth 32 := by
      refine BitVec.eq_of_toNat_eq ?_
      rw [BitVec.toNat_ushiftRight, BitVec.toNat_setWidth, BitVec.toNat_setWidth, BitVec.toNat_ushiftRight,
        Nat.mod_eq_of_lt hlt, Nat.mod_eq_of_lt ((Nat.shiftRight_le _ 8).trans_lt hlt)]
    have hrest : (v >>> 8).toNat < 2 ^ (8 * n) := by
      rw [BitVec.toNat_ushiftRight, Nat.shiftRight_eq_div_pow, Nat.div_lt_iff_lt_mul (by decide), ← Nat.pow_add]
      exact hv
    rw [crcStep, hlow, crcByte_low, hshift]
    exact ih (by omega) hrest

/-- An operand of at most 32 bits enters by exclusive or (41_crc.md R142 (c)). -/
theorem crcStep_eq_step_zero (poly : U32) {n : Nat} (hn : n ≤ 4) (c : U32) {v : U64} (hv : v.toNat < 2 ^ (8 * n)) :
    crcStep poly n c v = crcStep poly n (c ^^^ v.setWidth 32) 0 := by
  calc crcStep poly n c v
      = crcStep poly n ((c ^^^ v.setWidth 32) ^^^ v.setWidth 32) (0 ^^^ v) := by
        rw [BitVec.xor_assoc, BitVec.xor_self, BitVec.xor_zero]; simp
    _ = crcStep poly n (c ^^^ v.setWidth 32) 0 := by
        rw [crcStep_xor, crcStep_self poly hn hv]; simp

/-- Settles O23: the splits are two cases of `crcStep_add`. -/
theorem crcDividerLaws : Obligations.CrcDividerLaws := by
  refine fun poly => ⟨fun c v => ⟨?_, crcStep_add poly 2 2 c v, crcStep_add poly 4 4 c v⟩, crcStep_zero poly,
    fun n c v hn => ?_, crcStep_xor poly⟩
  · exact crcStep_eq_foldl poly 2 c v
  · have hle : 8 * n ≤ 64 := by omega
    have hv : (v.setWidth 64).toNat < 2 ^ (8 * n) := by
      rw [BitVec.toNat_setWidth_of_le hle]
      exact v.isLt
    have hw : (v.setWidth 64).setWidth 32 = v.setWidth 32 := BitVec.setWidth_setWidth_of_le v (by decide)
    rw [crcStep_eq_step_zero poly hn c hv, hw]

/-! ### The gate and the four commands -/

theorem gatedByCrc_unavailable {s : State} (h : s.capAvailable .crc = false) (body : State → State) :
    gatedByCrc s body = { s.afterCap .crc with status := 1 } := if_neg (by simp [h])

/-- Settles O25: every command of the family is its body behind the gate. -/
theorem crcGateRaisesUnavail : Obligations.CrcGateRaisesUnavail := by
  intro s i hi h
  have gated : ∀ body, Host.Outcome.next (gatedByCrc s body) = (.next { s.afterCap .crc with status := 1 } :
      Host.Outcome State Fault Refusal) := fun body => congrArg _ (gatedByCrc_unavailable h body)
  simp only [List.mem_cons, List.not_mem_nil, or_false] at hi
  rcases hi with rfl | rfl | rfl | rfl | rfl | rfl
  all_goals exact gated _

theorem crcCommand_available {s : State} (h : s.capAvailable .crc = true) (n : Nat) :
    crcCommand n s = { s.afterCap .crc with
      res0 := (crcStep s.par.crcPolyR n (s.opa.setWidth 32) s.opb).setWidth 64, status := 0 } := by
  rcases crcCommand_cases n s with ⟨_, e⟩ | ⟨hc, _⟩
  · exact e
  · simp [h] at hc

/-- The bits of the operand above the width of the step do not count (41_crc.md R143 to R145). -/
theorem crcStep_setWidth (poly : U32) {n w : Nat} (hw : 8 * n ≤ w) (h64 : w ≤ 64) (c : U32) (v : U64) :
    crcStep poly n c ((v.setWidth w).setWidth 64) = crcStep poly n c v := by
  refine crcStep_congr (fun i hi => ?_) poly c
  rw [BitVec.extractLsb'_setWidth_of_le (by omega), BitVec.extractLsb'_setWidth_of_le (by omega)]

theorem crcCommand_available_width {s : State} (h : s.capAvailable .crc = true) (n : Nat) {w : Nat} (hw : 8 * n ≤ w)
    (h64 : w ≤ 64) : crcCommand n s = { s.afterCap .crc with
      res0 := (crcStep s.par.crcPolyR n (s.opa.setWidth 32) ((s.opb.setWidth w).setWidth 64)).setWidth 64,
      status := 0 } := by
  rw [crcStep_setWidth _ hw h64, crcCommand_available h]

/-- Settles O24: a command reads no more of its operand than the step does; the examples are closed steps. -/
theorem crcCommandsDeliverOneStep : Obligations.CrcCommandsDeliverOneStep := by
  refine ⟨decodeWord_encode (i := .crc8) rfl, decodeWord_encode (i := .crc16) rfl,
    decodeWord_encode (i := .crc32) rfl, decodeWord_encode (i := .crc64) rfl, fun s h => ?_, fun s i hi h => ?_,
    by decide +kernel⟩
  · exact ⟨congrArg _ (crcCommand_available_width h 1 (by decide) (by decide)),
      congrArg _ (crcCommand_available_width h 2 (by decide) (by decide)),
      congrArg _ (crcCommand_available_width h 4 (by decide) (by decide)), congrArg _ (crcCommand_available h 8)⟩
  · exact crcGateRaisesUnavail s i (List.mem_append_left [Instr.hash32, .hash64] hi) h

end Sys2Proof.Machine
end

section
/-!
PROOF. The hashes of a buffer range: the chunks are the bytes of the range in order, so a hash is the division of those
bytes (41_crc.md R150 to R153).
-/

namespace Sys2Proof.Machine

open Sys2Proof

/-! ### The bytes of a chunk -/

theorem extractLsb'_zero_or_shiftLeft (x : Byte) (y : U64) :
    (x.setWidth 64 ||| y <<< 8).extractLsb' (8 * 0) 8 = x := by
  ext i hi
  have h64 : i < 64 := by omega
  simp [hi, h64]

theorem extractLsb'_succ_or_shiftLeft (x : Byte) (y : U64) {i : Nat} (h : i + 1 < 8) :
    (x.setWidth 64 ||| y <<< 8).extractLsb' (8 * (i + 1)) 8 = y.extractLsb' (8 * i) 8 := by
  ext j hj
  have hx : (x.setWidth 64).getLsbD (8 * (i + 1) + j) = false := by
    rw [BitVec.getLsbD_setWidth, BitVec.getLsbD_of_ge x _ (by omega), Bool.and_false]
  have hy : (y <<< 8).getLsbD (8 * (i + 1) + j) = y.getLsbD (8 * i + j) := by
    rw [BitVec.getLsbD_shiftLeft, decide_eq_true (by omega), decide_eq_false (by omega)]
    exact congrArg y.getLsbD (by omega)
  rw [BitVec.getElem_extractLsb', BitVec.getElem_extractLsb', BitVec.getLsbD_or, hx, hy, Bool.false_or]

/-- Byte `i` of a read of `n` bytes, at most 8 of them (20_memory.md R65). -/
theorem State.memRead_byte (s : State) (a : Nat) {n i : Nat} (hi : i < n) (h8 : i < 8) :
    (s.memRead a n).extractLsb' (8 * i) 8 = s.bufByte (a + i) := by
  induction n generalizing a i with
  | zero => omega
  | succ n ih =>
    rw [State.memRead_succ]
    cases i with
    | zero => exact extractLsb'_zero_or_shiftLeft _ _
    | succ i =>
      rw [extractLsb'_succ_or_shiftLeft _ _ h8, ih (a + 1) (by omega) (by omega), Nat.add_right_comm, Nat.add_assoc]

/-- The mask of a chunk has ones in each of its bytes, so it complements them (41_crc.md R152). -/
theorem extractLsb'_xor_byteMask (v : U64) {n i : Nat} (hi : i < n) (hn : n ≤ 8) :
    (v ^^^ byteMask n).extractLsb' (8 * i) 8 = ~~~(v.extractLsb' (8 * i) 8) := by
  have hones : (byteMask n).extractLsb' (8 * i) 8 = BitVec.allOnes 8 := by
    ext j hj
    have hin : 8 * i + j < 8 * n := by omega
    have h64 : 8 * i + j < 64 := by omega
    rw [BitVec.getElem_extractLsb', BitVec.getElem_allOnes, byteMask, BitVec.getLsbD_ofNat,
      Nat.testBit_two_pow_sub_one, decide_eq_true h64, decide_eq_true hin, Bool.and_self]
  rw [BitVec.extractLsb'_xor, hones, BitVec.xor_allOnes]

/-! ### The chunks of a range -/

/-- The positions a chunk covers. -/
def chunkBytes (k : Nat × Nat) : List Nat := List.range' k.1 k.2

theorem wordChunks_bytes (k i : Nat) : (wordChunks k i).flatMap chunkBytes = List.range' i (8 * k) := by
  induction k generalizing i with
  | zero => rfl
  | succ k ih => rw [wordChunks, List.flatMap_cons, ih, chunkBytes, List.range'_append_1, Nat.mul_succ, Nat.add_comm 8]

/-- Each of the eight tails, chunk by chunk (41_crc.md R151). -/
theorem tailChunks_bytes {r : Nat} (hr : r < 8) (i : Nat) : (tailChunks r i).flatMap chunkBytes = List.range' i r := by
  interval_cases r <;> rfl

/-- The chunks of a range cover each of its bytes once, in order (41_crc.md R151). -/
theorem hashChunks_bytes (len : Nat) : (hashChunks len).flatMap chunkBytes = List.range len := by
  have htail := tailChunks_bytes (Nat.mod_lt len (by decide : 8 > 0)) (8 * (len / 8))
  have hjoin := List.range'_append_1 (s := 0) (m := 8 * (len / 8)) (n := len % 8)
  rw [Nat.zero_add, Nat.div_add_mod] at hjoin
  rw [hashChunks, List.flatMap_append, wordChunks_bytes, htail, hjoin, List.range_eq_range']

theorem wordChunks_size {j i : Nat} {k : Nat × Nat} (h : k ∈ wordChunks j i) : k.2 ≤ 8 := by
  induction j generalizing i with
  | zero => cases h
  | succ j ih =>
    rcases List.mem_cons.mp h with rfl | h
    · exact le_rfl
    · exact ih h

theorem hashChunks_size {len : Nat} {k : Nat × Nat} (h : k ∈ hashChunks len) : k.2 ≤ 8 := by
  rcases List.mem_append.mp h with h | h
  · exact wordChunks_size h
  · have ht : k.2 = 4 ∨ k.2 = 2 ∨ k.2 = 1 := by
      simp only [tailChunks, List.mem_append, List.mem_ite_nil_right, List.mem_singleton] at h
      rcases h with (⟨_, rfl⟩ | ⟨_, rfl⟩) | ⟨_, rfl⟩ <;> simp
    omega

/-- Folding the chunks of a range divides its bytes one at a time (41_crc.md R142 (a), R151). -/
theorem foldl_hashChunks (poly : U32) {len : Nat} {word : Nat × Nat → U64} {byte : Nat → Byte}
    (h : ∀ k ∈ hashChunks len, ∀ i, i < k.2 → (word k).extractLsb' (8 * i) 8 = byte (k.1 + i)) (c : U32) :
    (hashChunks len).foldl (fun c k => crcStep poly k.2 c (word k)) c =
      (List.range len).foldl (fun c j => crcByte poly c (byte j)) c := by
  rw [← hashChunks_bytes, List.foldl_flatMap]
  refine List.foldl_ext _ _ c fun c k hk => ?_
  rw [crcStep_eq_foldl, chunkBytes, List.range'_eq_map_range, List.foldl_map]
  exact List.foldl_ext _ _ c fun c i hi => by rw [h k hk i (List.mem_range.mp hi)]

/-! ### A hash as the division of bytes -/

/-- The division of the bytes `g b`, `b` the bytes of the range in order, from `c`. -/
def State.divideRange (s : State) (g : Byte → Byte) (c : U32) (off len : Nat) : U32 :=
  (List.range len).foldl (fun c j => crcByte s.par.crcPolyR c (g (s.bufByte (off + j)))) c

/-- Two states with the same parameters and the same bytes in the range divide alike. -/
theorem State.divideRange_congr {s t : State} {off len : Nat} (hp : s.par = t.par)
    (hb : ∀ j, j < len → s.bufByte (off + j) = t.bufByte (off + j)) (g : Byte → Byte) (c : U32) :
    s.divideRange g c off len = t.divideRange g c off len :=
  List.foldl_ext _ _ c fun c j hj => by rw [hp, hb j (List.mem_range.mp hj)]

/-- The chunks as they are read. -/
theorem foldl_memRead (s : State) (off len : Nat) (c : U32) :
    (hashChunks len).foldl (fun c k => crcStep s.par.crcPolyR k.2 c (s.memRead (off + k.1) k.2)) c =
      s.divideRange id c off len :=
  foldl_hashChunks s.par.crcPolyR (byte := fun j => s.bufByte (off + j)) (fun k hk i hi => by
    rw [s.memRead_byte _ hi (hi.trans_le (hashChunks_size hk)), Nat.add_assoc]) c

/-- The chunks complemented. -/
theorem foldl_memRead_compl (s : State) (off len : Nat) (c : U32) :
    (hashChunks len).foldl
        (fun c k => crcStep s.par.crcPolyR k.2 c (s.memRead (off + k.1) k.2 ^^^ byteMask k.2)) c =
      s.divideRange (fun b => ~~~b) c off len :=
  foldl_hashChunks s.par.crcPolyR (byte := fun j => ~~~s.bufByte (off + j)) (fun k hk i hi => by
    have hk8 := hashChunks_size hk
    rw [extractLsb'_xor_byteMask _ hi hk8, s.memRead_byte _ hi (hi.trans_le hk8), Nat.add_assoc]) c

theorem hash32_eq_divideRange (s : State) (off len : Nat) :
    hash32 s off len = s.divideRange id s.par.phi32 off len := foldl_memRead s off len s.par.phi32

theorem hash64Streams_fst (s : State) (off len : Nat) :
    (hash64Streams s off len).1 = s.divideRange id (s.par.phi64.extractLsb' 32 32) off len :=
  (List.foldl_hom Prod.fst fun _ _ => rfl).symm.trans (foldl_memRead s off len _)

theorem hash64Streams_snd (s : State) (off len : Nat) :
    (hash64Streams s off len).2 = s.divideRange (fun b => ~~~b) (s.par.phi64.extractLsb' 0 32) off len :=
  (List.foldl_hom Prod.snd fun _ _ => rfl).symm.trans (foldl_memRead_compl s off len _)

theorem hash64_eq_divideRange (s : State) (off len : Nat) : hash64 s off len =
    s.divideRange id (s.par.phi64.extractLsb' 32 32) off len ++
      s.divideRange (fun b => ~~~b) (s.par.phi64.extractLsb' 0 32) off len := by
  rw [hash64, hash64Streams_fst, hash64Streams_snd, ← BitVec.setWidth_append_eq_shiftLeft_setWidth_or,
    BitVec.setWidth_eq]

/-! ### What a hash depends on -/

/-- `h` reads the parameters and the bytes of its range. -/
def ReadsRangeOnly {w : Nat} (h : State → Nat → Nat → BitVec w) : Prop :=
  ∀ (s t : State) (off len : Nat), s.par = t.par →
    (∀ j, j < len → s.bufByte (off + j) = t.bufByte (off + j)) → h s off len = h t off len

theorem hash32_readsRangeOnly : ReadsRangeOnly hash32 := fun s t off len hp hb => by
  rw [hash32_eq_divideRange, hash32_eq_divideRange, State.divideRange_congr hp hb, hp]

theorem hash64_readsRangeOnly : ReadsRangeOnly hash64 := fun s t off len hp hb => by
  rw [hash64_eq_divideRange, hash64_eq_divideRange, State.divideRange_congr hp hb, State.divideRange_congr hp hb, hp]

/-- The evaluation of `cap` is not seen by a hash. -/
theorem ReadsRangeOnly.afterCap {w : Nat} {h : State → Nat → Nat → BitVec w} (hh : ReadsRangeOnly h) (s : State)
    (off len : Nat) : h (s.afterCap .crc) off len = h s off len :=
  hh _ _ _ _ (by simp) fun _ _ => State.bufByte_congr (by simp) (by simp) _

/-! ### The hash commands -/

theorem hashRangeOk_iff (s : State) : hashRangeOk s = true ↔
    s.opa.toNat ≤ s.par.bufBytes ∧ s.opb.toNat ≤ s.par.bufBytes - s.opa.toNat := by
  simp [hashRangeOk]

/-- A range that leaves the buffer (41_crc.md R150). -/
theorem hashCommand_outside {w : Nat} (h : State → Nat → Nat → BitVec w) {s : State}
    (hc : s.capAvailable .crc = true) (hr : hashRangeOk s = false) :
    hashCommand h s = { s.afterCap .crc with status := 6 } := by
  rcases hashCommand_cases h s with ⟨_, hr', _⟩ | ⟨_, _, e⟩ | ⟨hc', _⟩
  · simp [hr] at hr'
  · exact e
  · simp [hc] at hc'

/-- A range inside the buffer (41_crc.md R151, R152). -/
theorem hashCommand_inside {w : Nat} {h : State → Nat → Nat → BitVec w} (hh : ReadsRangeOnly h) {s : State}
    (hc : s.capAvailable .crc = true) (hr : hashRangeOk s = true) :
    hashCommand h s = { s.afterCap .crc with
      res0 := (h s s.opa.toNat s.opb.toNat).setWidth 64, status := 0 } := by
  rcases hashCommand_cases h s with ⟨_, _, e⟩ | ⟨_, hr', _⟩ | ⟨hc', _⟩
  · rw [e, hh.afterCap, State.withRes0_succeed]
  · simp [hr] at hr'
  · simp [hc] at hc'

theorem exec_hash32_inside {s : State} (hc : s.capAvailable .crc = true) (hr : hashRangeOk s = true) :
    exec .hash32 s = .next { s.afterCap .crc with
      res0 := (hash32 s s.opa.toNat s.opb.toNat).setWidth 64, status := 0 } := by
  rw [exec, execHash32, hashCommand_inside hash32_readsRangeOnly hc hr]

theorem exec_hash64_inside {s : State} (hc : s.capAvailable .crc = true) (hr : hashRangeOk s = true) :
    exec .hash64 s = .next { s.afterCap .crc with res0 := hash64 s s.opa.toNat s.opb.toNat, status := 0 } := by
  rw [exec, execHash64, hashCommand_inside hash64_readsRangeOnly hc hr, BitVec.setWidth_eq]

/-- Settles O27: both hashes divide the bytes of the range one at a time. -/
theorem hashesEqualBytewiseDivision : Obligations.HashesEqualBytewiseDivision := by
  intro s hc ha hb
  have hr := (hashRangeOk_iff s).mpr ⟨ha, hb⟩
  rw [exec_hash32_inside hc hr, exec_hash64_inside hc hr, hash32_eq_divideRange, hash64_eq_divideRange]
  exact ⟨rfl, rfl⟩

theorem hash32_empty (s : State) (off : Nat) : hash32 s off 0 = s.par.phi32 := rfl

theorem hash64_empty (s : State) (off : Nat) : hash64 s off 0 = s.par.phi64 := by
  rw [hash64_eq_divideRange]
  exact BitVec.extractLsb'_append_extractLsb'

/-- Settles O26: the check is the negation of the two ways to leave the buffer. -/
theorem hashChecksItsRange : Obligations.HashChecksItsRange := by
  intro s hc
  refine ⟨fun hout => ?_, fun ha hb => ?_, fun hb ha => ?_⟩
  · have hr : hashRangeOk s = false := by
      rw [Bool.eq_false_iff, ne_eq, hashRangeOk_iff]
      omega
    exact ⟨congrArg _ (hashCommand_outside hash32 hc hr), congrArg _ (hashCommand_outside hash64 hc hr)⟩
  · have hr := (hashRangeOk_iff s).mpr ⟨ha, hb⟩
    exact ⟨⟨_, exec_hash32_inside hc hr⟩, ⟨_, exec_hash64_inside hc hr⟩⟩
  · have hlen : s.opb.toNat = 0 := by rw [hb]; rfl
    have hr := (hashRangeOk_iff s).mpr ⟨ha, by omega⟩
    rw [exec_hash32_inside hc hr, exec_hash64_inside hc hr, hlen, hash32_empty, hash64_empty]
    exact ⟨rfl, rfl⟩

/-- A hash command that ends `OK` has delivered the hash of its range. -/
theorem hashCommand_res0_of_ok {w : Nat} {h : State → Nat → Nat → BitVec w} (hh : ReadsRangeOnly h) {s : State}
    (hok : codeField (hashCommand h s).status = 0) :
    (hashCommand h s).res0 = (h s s.opa.toNat s.opb.toNat).setWidth 64 := by
  rcases hashCommand_cases h s with ⟨_, _, e⟩ | ⟨_, _, e⟩ | ⟨_, e⟩ <;> rw [e] at hok ⊢
  · exact congrArg (BitVec.setWidth 64) (hh.afterCap s _ _)
  all_goals
    rw [State.raise_status, codeField_statusWord] at hok
    cases hok

theorem hashCommand_readsRangeOnly {w : Nat} {h : State → Nat → Nat → BitVec w} (hh : ReadsRangeOnly h) {s t : State}
    (hp : s.par = t.par) (ha : s.opa = t.opa) (hl : s.opb = t.opb)
    (hb : ∀ j, j < s.opb.toNat → s.bufByte (s.opa.toNat + j) = t.bufByte (s.opa.toNat + j))
    (hs : codeField (hashCommand h s).status = 0) (ht : codeField (hashCommand h t).status = 0) :
    (hashCommand h s).res0 = (hashCommand h t).res0 := by
  rw [hashCommand_res0_of_ok hh hs, hashCommand_res0_of_ok hh ht, hh s t _ _ hp hb, ha, hl]

/-- Settles O28: both hashes read the parameters and their range only. -/
theorem hashReadsOnlyItsRange : Obligations.HashReadsOnlyItsRange := by
  rintro s t s' t' i (rfl | rfl) hp ha hl hb ⟨⟩ ⟨⟩ hs ht
  · exact hashCommand_readsRangeOnly hash32_readsRangeOnly hp ha hl hb hs ht
  · exact hashCommand_readsRangeOnly hash64_readsRangeOnly hp ha hl hb hs ht

end Sys2Proof.Machine
end

section
/-!
PROOF. The generator commands: the check of `GINITED`, the file `GINIT` makes, and what `GNEXT`, `GUNIF` and `GADOPT`
write (42_prng.md R170 to R180, R185, R186).
-/

namespace Sys2Proof.Machine

open Sys2Proof

/-! ### The check of `GINITED` -/

theorem needsInit_of_inited {v : Variant} {s : State} (h : isInited s.ginited v = true)
    (body : State → Host.Outcome State Fault Refusal) : needsInit v s body = body s := if_pos h

theorem needsInit_of_uninited {v : Variant} {s : State} (h : isInited s.ginited v = false)
    (body : State → Host.Outcome State Fault Refusal) : needsInit v s body = .next { s with status := 4 } :=
  if_neg (by simp [h])

/-- Settles O31: each stepping command makes the check first, on every variant that has the command. -/
theorem uninitialisedGeneratorRaisesNoinit : Obligations.UninitialisedGeneratorRaisesNoinit := by
  intro s v i hi hw hu
  simp only [List.mem_cons, List.not_mem_nil, or_false] at hi
  rcases hi with rfl | rfl | rfl | rfl | rfl
  · rw [exec, execGnext, needsInit_of_uninited hu]
  · rw [exec, execGjump, needsInit_of_uninited hu]
  · cases v with
    | gf | gd => rw [exec, execGunif, needsInit_of_uninited hu]
    | g32 | g64 => cases hw
  · cases v with
    | g32 | g64 => rw [exec, execGbound, needsInit_of_uninited hu]
    | gf | gd => cases hw
  · cases v with
    | g32 | g64 => rw [exec, execGrange, needsInit_of_uninited hu]
    | gf | gd => cases hw

/-! ### `GINIT` -/

theorem exec_ginit (v : Variant) (s : State) : exec (.ginit v) s =
    .next { s.initFile v s.opa with ginited := setInited s.ginited v, status := 0 } := by
  cases v <;> rfl

theorem guardQuad_eq {w : Nat} (phi : BitVec w) (f : Quad w) : guardQuad phi f =
    ⟨if f.w0 = 0 ∧ f.w1 = 0 ∧ f.w2 = 0 ∧ f.w3 = 0 then phi else f.w0, f.w1, f.w2, f.w3⟩ := by
  obtain ⟨x0, x1, x2, x3⟩ := f
  simp only [guardQuad, Quad.mk.injEq]
  split <;> rfl

theorem guardDuo_eq (phi : U64) (f : Duo) : guardDuo phi f =
    ⟨if f.w0 = 0 ∧ f.w1 = 0 then phi else f.w0, f.w1⟩ := by
  obtain ⟨x0, x1⟩ := f
  simp only [guardDuo, Duo.mk.injEq]
  split <;> rfl

/-- Settles O29: the words of the seed expander run on `OPA`, and the guard as a condition on the first word. -/
theorem ginitFillsTheFile : Obligations.GinitFillsTheFile := by
  refine ⟨decodeWord_encode (i := .ginit .g32) rfl, decodeWord_encode (i := .ginit .g64) rfl,
    decodeWord_encode (i := .ginit .gf) rfl, decodeWord_encode (i := .ginit .gd) rfl, fun s hp ha => ⟨?_, ?_⟩,
    fun s => ⟨?_, ?_, ?_, ?_⟩⟩
  · have hfile : initQuad32 Params.candidate 0 = ⟨0x7B1DCDAF, 0xE220A839, 0xA1B965F4, 0x6E789E6A⟩ := by decide
    rw [exec_ginit, State.initFile, hp, ha, hfile]
    rfl
  · have hfile : initDuo Params.candidate 0 = ⟨0xE220A8397B1DCDAF, 0x6E789E6AA1B965F4⟩ := by decide
    rw [exec_ginit, State.initFile, hp, ha, hfile]
    rfl
  · rw [exec_ginit, State.initFile, initQuad32, guardQuad_eq]; rfl
  · rw [exec_ginit, State.initFile, initQuad32, guardQuad_eq]; rfl
  · rw [exec_ginit, State.initFile, initQuad64, guardQuad_eq]; rfl
  · rw [exec_ginit, State.initFile, initDuo, guardDuo_eq]; rfl

/-- The guard leaves no zero file where the φ words are not 0, whatever the other parameters (42_prng.md R173). -/
theorem State.fileZero_initFile_of_phi {s : State} (h32 : s.par.phi32 ≠ 0) (h64 : s.par.phi64 ≠ 0) (v : Variant)
    (seed : U64) : (s.initFile v seed).fileZero v = false := by
  cases v with
  | g32 | gf => exact beq_eq_false_iff_ne.mpr (guardQuad_ne_zero h32 _)
  | g64 => exact beq_eq_false_iff_ne.mpr (guardQuad_ne_zero h64 _)
  | gd => exact beq_eq_false_iff_ne.mpr (guardDuo_ne_zero h64 _)

theorem expanderAcc_succ (p : Params) (seed : U64) (n : Nat) :
    expanderAcc p seed (n + 1) = expanderAcc p seed n + p.sexpInc := rfl

theorem expanderWord_eq (p : Params) (seed : U64) (n : Nat) :
    expanderWord p seed n = mix64 p (expanderAcc p seed (n + 1)) := rfl

/-- With an injective mixer two successive expander words differ, as their accumulators do (42_prng.md R173). -/
theorem expanderWord_succ_ne {p : Params} (hmix : Function.Injective (mix64 p)) (hinc : p.sexpInc ≠ 0) (seed : U64)
    (n : Nat) : expanderWord p seed (n + 1) ≠ expanderWord p seed n := by
  rw [expanderWord_eq, expanderWord_eq, hmix.ne_iff, expanderAcc_succ p seed (n + 1)]
  exact fun h => hinc (by simpa using h)

/-- Settles O30. -/
theorem ginitNeverMakesAZeroFile : Obligations.GinitNeverMakesAZeroFile := by
  refine ⟨fun v s t h32 h64 h => ?_, fun p seed hmix hinc n ⟨h0, h1⟩ => ?_⟩
  · obtain rfl := Host.Outcome.next.inj ((exec_ginit v s).symm.trans h)
    have hsame : (s.initFile v s.opa).SameFile v
        { s.initFile v s.opa with ginited := setInited s.ginited v, status := 0 } :=
      State.sameFile_of_eq v rfl rfl rfl rfl
    exact hsame.fileZero.trans (State.fileZero_initFile_of_phi h32 h64 v s.opa)
  · exact expanderWord_succ_ne hmix.injective hinc seed n (h1.trans h0.symm)

/-! ### `GNEXT` and `GUNIF` -/

theorem exec_gnext {v : Variant} {s : State} (h : isInited s.ginited v = true) :
    exec (.gnext v) s = .next { s.advance v with res0 := s.nextOut v, status := 0 } := by
  rw [exec, execGnext, needsInit_of_inited h, State.withRes0_succeed, BitVec.setWidth_eq]

/-- Settles O32: outputs and updates are those of each variant's step. -/
theorem gnextOutputsThenUpdates : Obligations.GnextOutputsThenUpdates := by
  refine fun s => ⟨fun h => ?_, fun h => ?_, fun h => ?_, fun h => ?_⟩ <;> rw [exec_gnext h] <;> rfl

theorem exec_gunif_gf {s : State} (h : isInited s.ginited .gf = true) : exec (.gunif .gf) s = .next
    { s with
      gf := (stepGf s.par s.gf).2, res0 := ((s.gf.w0 + s.gf.w3) >>> 8).setWidth 64
      res1 := (f32Of ((s.gf.w0 + s.gf.w3) >>> 8)).setWidth 64, status := 0 } := by
  rw [exec, execGunif, needsInit_of_inited h]
  rfl

theorem exec_gunif_gd {s : State} (h : isInited s.ginited .gd = true) : exec (.gunif .gd) s = .next
    { s with
      gd := (stepGd s.par s.gd).2, res0 := (s.gd.w0 + s.gd.w1) >>> 11
      res1 := f64Of ((s.gd.w0 + s.gd.w1) >>> 11), status := 0 } := by
  rw [exec, execGunif, needsInit_of_inited h, State.uniformDouble, State.withRes1]
  simp only [State.withRes0, BitVec.setWidth_eq]
  rfl

/-- Settles O36: a right shift leaves a number of the bits that are left. -/
theorem gunifDeliversIntegerAndPattern : Obligations.GunifDeliversIntegerAndPattern := by
  refine ⟨decodeWord_encode (i := .gunif .gf) rfl, decodeWord_encode (i := .gunif .gd) rfl,
    decodeWord_of_notMem (by decide), decodeWord_of_notMem (by decide), fun s => ⟨fun h => ?_, fun h => ?_,
    fun h => ⟨exec_gunif_gf h, ?_⟩, fun h => ⟨exec_gunif_gd h, ?_⟩⟩⟩
  · exact uninitialisedGeneratorRaisesNoinit s .gf _ (by decide) rfl h
  · exact uninitialisedGeneratorRaisesNoinit s .gd _ (by decide) rfl h
  · exact BitVec.toNat_ushiftRight_lt _ 8 (by decide)
  · exact BitVec.toNat_ushiftRight_lt _ 11 (by decide)

/-! ### `GADOPT` -/

theorem exec_gadopt_zero {v : Variant} {s : State} (h : s.fileZero v = true) :
    exec (.gadopt v) s = .next { s with status := 3 } := by
  rw [exec, execGadopt, if_pos h]
  rfl

theorem exec_gadopt_nonzero {v : Variant} {s : State} (h : s.fileZero v = false) :
    exec (.gadopt v) s = .next { s with ginited := setInited s.ginited v, status := 0 } := by
  rw [exec, execGadopt, if_neg (by simp [h])]
  rfl

/-- Settles O38: a file passes the check of `GADOPT` exactly where it is not all zero. -/
theorem gadoptChecksTheNonzeroInvariant : Obligations.GadoptChecksTheNonzeroInvariant := by
  refine ⟨decodeWord_encode (i := .gadopt .g32) rfl, decodeWord_encode (i := .gadopt .g64) rfl,
    decodeWord_encode (i := .gadopt .gf) rfl, decodeWord_encode (i := .gadopt .gd) rfl, fun s =>
    ⟨fun h => exec_gadopt_zero (v := .g32) ?_, fun h => exec_gadopt_nonzero (v := .g32) ?_,
      fun h => exec_gadopt_zero (v := .g64) ?_, fun h => exec_gadopt_nonzero (v := .g64) ?_,
      fun h => exec_gadopt_zero (v := .gf) ?_, fun h => exec_gadopt_nonzero (v := .gf) ?_,
      fun h => exec_gadopt_zero (v := .gd) ?_, fun h => exec_gadopt_nonzero (v := .gd) ?_⟩⟩ <;>
    simpa [State.fileZero] using h

end Sys2Proof.Machine
end

section
/-!
PROOF. The generators' updates and jumps over exclusive or: the updates are linear with kernel 0, so they are
bijections, and a jump sums the advanced files (42_prng.md R175, R178, R182).
-/

namespace Sys2Proof.Machine

open Sys2Proof

/-! ### Exclusive or of words and files -/

/-- Each bit of a rotated word is one bit of the word: the two shifts never overlap. -/
theorem getLsbD_rotl {w : Nat} (x : BitVec w) (r : Nat) {i : Nat} (hi : i < w) :
    (rotl x r).getLsbD i = if i < r then x.getLsbD (w - r + i) else x.getLsbD (i - r) := by
  rw [rotl, BitVec.getLsbD_or, BitVec.getLsbD_shiftLeft, BitVec.getLsbD_ushiftRight]
  split
  case isTrue h => simp [h]
  case isFalse h => simp [h, hi, BitVec.getLsbD_of_ge x (w - r + i) (by omega)]

theorem rotl_xor {w : Nat} (x y : BitVec w) (r : Nat) : rotl (x ^^^ y) r = rotl x r ^^^ rotl y r := by
  refine BitVec.eq_of_getLsbD_eq fun i hi => ?_
  simp only [BitVec.getLsbD_xor, getLsbD_rotl _ _ hi]
  split <;> rfl

theorem xorQuad_self {w : Nat} (f : Quad w) : xorQuad f f = ⟨0, 0, 0, 0⟩ := by simp [xorQuad]

theorem xorDuo_self (f : Duo) : xorDuo f f = ⟨0, 0⟩ := by simp [xorDuo]

theorem xorQuad_eq_zero {w : Nat} {f g : Quad w} (h : xorQuad f g = ⟨0, 0, 0, 0⟩) : f = g := by
  obtain ⟨h0, h1, h2, h3⟩ := (Quad.mk.injEq ..).mp h
  cases f; cases g
  exact (Quad.mk.injEq ..).mpr ⟨BitVec.xor_eq_zero_iff.mp h0, BitVec.xor_eq_zero_iff.mp h1,
    BitVec.xor_eq_zero_iff.mp h2, BitVec.xor_eq_zero_iff.mp h3⟩

theorem xorDuo_eq_zero {f g : Duo} (h : xorDuo f g = ⟨0, 0⟩) : f = g := by
  obtain ⟨h0, h1⟩ := (Duo.mk.injEq ..).mp h
  cases f; cases g
  exact (Duo.mk.injEq ..).mpr ⟨BitVec.xor_eq_zero_iff.mp h0, BitVec.xor_eq_zero_iff.mp h1⟩

theorem xor_interchange {w : Nat} (a b c d : BitVec w) : (a ^^^ b) ^^^ (c ^^^ d) = (a ^^^ c) ^^^ (b ^^^ d) := by ac_rfl

theorem xorQuad_interchange {w : Nat} (a b c d : Quad w) :
    xorQuad (xorQuad a b) (xorQuad c d) = xorQuad (xorQuad a c) (xorQuad b d) := by
  simp only [xorQuad, xor_interchange a.w0, xor_interchange a.w1, xor_interchange a.w2, xor_interchange a.w3]

theorem xorDuo_interchange (a b c d : Duo) :
    xorDuo (xorDuo a b) (xorDuo c d) = xorDuo (xorDuo a c) (xorDuo b d) := by
  simp only [xorDuo, xor_interchange a.w0, xor_interchange a.w1]

/-! ### The updates are linear -/

theorem lin4_xor {w : Nat} (a b : Nat) (f g : Quad w) :
    lin4 a b (xorQuad f g) = xorQuad (lin4 a b f) (lin4 a b g) := by
  simp only [lin4, xorQuad, BitVec.shiftLeft_xor_distrib, ← rotl_xor, Quad.mk.injEq]
  refine ⟨?_, ?_, ?_, congrArg (rotl · b) ?_⟩ <;> ac_rfl

theorem stepGd_xor (p : Params) (f g : Duo) :
    (stepGd p (xorDuo f g)).2 = xorDuo (stepGd p f).2 (stepGd p g).2 := by
  simp only [stepGd, xorDuo, rotl_xor, BitVec.shiftLeft_xor_distrib, Duo.mk.injEq]
  constructor <;> ac_rfl

/-! ### The updates are bijections -/

theorem finite_quad (w : Nat) : Finite (Quad w) :=
  .of_injective (fun f : Quad w => (f.w0, f.w1, f.w2, f.w3)) fun f g h => by cases f; cases g; simp_all

theorem finite_duo : Finite Duo :=
  .of_injective (fun f : Duo => (f.w0, f.w1)) fun f g h => by cases f; cases g; simp_all

/-- Two files with one image differ by a file that the update takes to zero. -/
theorem lin4_injective {w a b : Nat} (ha : 0 < a) (hb : b < w) : Function.Injective (lin4 a b : Quad w → Quad w) := by
  intro f g h
  refine xorQuad_eq_zero (lin4_eq_zero ha hb ?_)
  rw [lin4_xor, h, xorQuad_self]

theorem stepGd_injective {p : Params} (ha : p.gdRotA < 64) (hb : p.gdRotB < 64) :
    Function.Injective fun f : Duo => (stepGd p f).2 := by
  intro f g h
  refine xorDuo_eq_zero (stepGd_eq_zero ha hb ?_)
  rw [stepGd_xor, show (stepGd p f).2 = (stepGd p g).2 from h, xorDuo_self]

/-- Settles O33: an injective update of finitely many files is a bijection. -/
theorem linearUpdatesAreBijections : Obligations.LinearUpdatesAreBijections := by
  refine ⟨fun w a b ha _ _ hb => ?_, fun p _ ha _ _ _ hb => ?_⟩
  · have := finite_quad w
    exact Finite.injective_iff_bijective.mp (lin4_injective ha hb)
  · have := finite_duo
    exact Finite.injective_iff_bijective.mp (stepGd_injective ha hb)

/-! ### Jumps are linear -/

/-- The walk of a jump keeps whatever addition the advance keeps. -/
theorem jumpWalk_add {σ : Type} {add : σ → σ → σ} {adv : σ → σ}
    (hadd : ∀ a b c d, add (add a b) (add c d) = add (add a c) (add b d))
    (hadv : ∀ f g, adv (add f g) = add (adv f) (adv g)) (bits : List Bool) (a b f g : σ) :
    jumpWalk add adv bits (add a b) (add f g) = add (jumpWalk add adv bits a f) (jumpWalk add adv bits b g) := by
  induction bits generalizing a b f g with
  | nil => rfl
  | cons bit bits ih =>
    rw [jumpWalk, hadv]
    cases bit
    case false => exact ih a b (adv f) (adv g)
    case true => exact (congrArg (jumpWalk add adv bits · _) (hadd a b f g)).trans (ih _ _ (adv f) (adv g))

/-- A jump walks from the zero accumulator, which is the sum of two. -/
theorem jumpWalk_zero_add {σ : Type} {add : σ → σ → σ} {adv : σ → σ} {zero : σ}
    (hadd : ∀ a b c d, add (add a b) (add c d) = add (add a c) (add b d))
    (hadv : ∀ f g, adv (add f g) = add (adv f) (adv g)) (hzero : add zero zero = zero) (bits : List Bool) (f g : σ) :
    jumpWalk add adv bits zero (add f g) =
      add (jumpWalk add adv bits zero f) (jumpWalk add adv bits zero g) := by
  simpa only [hzero] using jumpWalk_add hadd hadv bits zero zero f g

/-- Settles O35: the updates are linear, so the walks over them are. -/
theorem jumpsAreLinear : Obligations.JumpsAreLinear := fun p =>
  ⟨jumpWalk_zero_add xorQuad_interchange (lin4_xor _ _) (xorQuad_self _) (quadBits p.jumpG32),
    jumpWalk_zero_add xorQuad_interchange (lin4_xor _ _) (xorQuad_self _) (quadBits p.jumpG64),
    jumpWalk_zero_add xorDuo_interchange (stepGd_xor p) (xorDuo_self _) (duoBits p.jumpGd)⟩

/-! ### A jump sums the advanced files -/

theorem wordBits_append {v w : Nat} (x : BitVec v) (y : BitVec w) : wordBits (x ++ y) = wordBits y ++ wordBits x := by
  have hlow : ∀ i ∈ List.range w, (x ++ y).getLsbD i = y.getLsbD i := fun i hi => by
    rw [BitVec.getLsbD_append, if_pos (List.mem_range.mp hi)]
  have hhigh : (x ++ y).getLsbD ∘ (w + ·) = x.getLsbD := funext fun i => by
    simp [BitVec.getLsbD_append]
  have hsplit : List.range (v + w) = List.range w ++ (List.range v).map (w + ·) := by rw [Nat.add_comm, List.range_add]
  simp only [wordBits, hsplit, List.map_append, List.map_map, hhigh, List.map_congr_left hlow]

theorem quadBits_eq_wordBits {w : Nat} (j : Quad w) : quadBits j = wordBits (j.w3 ++ j.w2 ++ j.w1 ++ j.w0) := by
  simp only [quadBits, wordBits_append, List.append_assoc]

theorem duoBits_eq_wordBits (j : Duo) : duoBits j = wordBits (j.w1 ++ j.w0) := by
  rw [duoBits, wordBits_append]

/-- The walk adds, at each set bit `i` of the polynomial, the file advanced `i` times (42_prng.md R182). -/
theorem jumpWalk_map_range {σ : Type} (add : σ → σ → σ) (adv : σ → σ) (bit : Nat → Bool) (n : Nat) (acc f : σ) :
    jumpWalk add adv ((List.range n).map bit) acc f =
      (List.range n).foldl (fun acc i => if bit i then add acc (adv^[i] f) else acc) acc := by
  induction n generalizing bit acc f with
  | zero => rfl
  | succ n ih =>
    simp only [List.range_succ_eq_map, List.map_cons, List.map_map, List.foldl_cons, List.foldl_map, jumpWalk, ih]
    rfl

/-- The exclusive or, over the set bits `i` of `j` in ascending order, of the file advanced `i` times. -/
def sumOfAdvanced {σ : Type} (add : σ → σ → σ) (adv : σ → σ) (zero : σ) {n : Nat} (j : BitVec n) (f : σ) : σ :=
  (List.range n).foldl (fun acc i => if j.getLsbD i then add acc (adv^[i] f) else acc) zero

theorem jumpWalk_wordBits {σ : Type} (add : σ → σ → σ) (adv : σ → σ) (zero : σ) {n : Nat} (j : BitVec n) (f : σ) :
    jumpWalk add adv (wordBits j) zero f = sumOfAdvanced add adv zero j f :=
  jumpWalk_map_range add adv j.getLsbD n zero f

theorem jumpQuad32_eq_sumOfAdvanced (p : Params) (f : Quad 32) :
    jumpQuad32 p f = sumOfAdvanced xorQuad (lin4 p.g32Shift p.g32Rot) ⟨0, 0, 0, 0⟩ (n := 128)
      (p.jumpG32.w3 ++ p.jumpG32.w2 ++ p.jumpG32.w1 ++ p.jumpG32.w0) f := by
  rw [jumpQuad32, quadBits_eq_wordBits, jumpWalk_wordBits]

theorem jumpQuad64_eq_sumOfAdvanced (p : Params) (f : Quad 64) :
    jumpQuad64 p f = sumOfAdvanced xorQuad (lin4 p.g64Shift p.g64Rot) ⟨0, 0, 0, 0⟩ (n := 256)
      (p.jumpG64.w3 ++ p.jumpG64.w2 ++ p.jumpG64.w1 ++ p.jumpG64.w0) f := by
  rw [jumpQuad64, quadBits_eq_wordBits, jumpWalk_wordBits]

theorem jumpDuo_eq_sumOfAdvanced (p : Params) (f : Duo) :
    jumpDuo p f = sumOfAdvanced xorDuo (fun g => (stepGd p g).2) ⟨0, 0⟩ (n := 128)
      (p.jumpGd.w1 ++ p.jumpGd.w0) f := by
  rw [jumpDuo, duoBits_eq_wordBits, jumpWalk_wordBits]

/-- The update of G32 as its step gives it; likewise below for G64 and GF (42_prng.md R175, R179). -/
theorem stepG32_update (p : Params) : (fun f => (stepG32 p f).2) = lin4 p.g32Shift p.g32Rot := rfl

theorem stepG64_update (p : Params) : (fun f => (stepG64 p f).2) = lin4 p.g64Shift p.g64Rot := rfl

theorem stepGf_update (p : Params) : (fun f => (stepGf p f).2) = lin4 p.g32Shift p.g32Rot := rfl

theorem exec_gjump {v : Variant} {s : State} (h : isInited s.ginited v = true) :
    exec (.gjump v) s = .next { s.jumpFile v with status := 0 } := by
  rw [exec, execGjump, needsInit_of_inited h]
  rfl

/-- Settles O34: each jump is the walk over the bits of its polynomial, its words joined into one. -/
theorem gjumpXorsTheAdvancedFiles : Obligations.GjumpXorsTheAdvancedFiles := by
  refine fun s => ⟨fun h => ?_, fun h => ?_, fun h => ?_, fun h => ?_⟩ <;> rw [exec_gjump h, State.jumpFile]
  · rw [jumpQuad32_eq_sumOfAdvanced, ← stepG32_update, sumOfAdvanced]
  · rw [jumpQuad32_eq_sumOfAdvanced, ← stepGf_update, sumOfAdvanced]
  · rw [jumpQuad64_eq_sumOfAdvanced, ← stepG64_update, sumOfAdvanced]
  · rw [jumpDuo_eq_sumOfAdvanced, sumOfAdvanced]

end Sys2Proof.Machine
end

section
/-!
PROOF. The floating-point patterns of `GUNIF`: a normal number whose value is the integer scaled, exactly
(42_prng.md R187).
-/

namespace Sys2Proof.Machine

open Sys2Proof

/-- The exponent field of `k · 2^-(m+1)` in a format of `m` fraction bits. -/
def exponentField (bias m k : Nat) : Nat := bias + k.log2 - (m + 1)

/-- The fraction field of `k · 2^-(m+1)`: the bits of `k` below the leading one. -/
def fractionField (m k : Nat) : Nat := (k <<< (m - k.log2)) % 2 ^ m

/-- The pattern with these fields and sign 0, in a word of `w` bits. -/
def normalPattern (w bias m k : Nat) : BitVec w := BitVec.ofNat w ((exponentField bias m k <<< m) ||| fractionField m k)

theorem f32Of_eq {k : U32} (h : k ≠ 0) : f32Of k = normalPattern 32 127 23 k.toNat := if_neg h

theorem f64Of_eq {k : U64} (h : k ≠ 0) : f64Of k = normalPattern 64 1023 52 k.toNat := if_neg h

theorem fractionField_lt (m k : Nat) : fractionField m k < 2 ^ m := Nat.mod_lt _ (by positivity)

/-! ### The value of the fields -/

/-- Shifted to `m` fraction bits, `k` is its leading one above its fraction. -/
theorem two_pow_add_fractionField {m k : Nat} (h0 : k ≠ 0) (hk : k < 2 ^ (m + 1)) :
    2 ^ m + fractionField m k = k * 2 ^ (m - k.log2) := by
  have hlog : k.log2 ≤ m := Nat.lt_succ_iff.mp ((Nat.log2_lt h0).mpr hk)
  have hlow : 2 ^ m ≤ k * 2 ^ (m - k.log2) := by
    calc 2 ^ m = 2 ^ k.log2 * 2 ^ (m - k.log2) := by rw [← Nat.pow_add, Nat.add_sub_cancel' hlog]
      _ ≤ k * 2 ^ (m - k.log2) := Nat.mul_le_mul_right _ (Nat.log2_self_le h0)
  have hhigh : k * 2 ^ (m - k.log2) < 2 ^ m + 2 ^ m := by
    calc k * 2 ^ (m - k.log2) < 2 ^ (k.log2 + 1) * 2 ^ (m - k.log2) :=
          Nat.mul_lt_mul_of_pos_right Nat.lt_log2_self (by positivity)
      _ = 2 ^ m + 2 ^ m := by rw [← Nat.pow_add, ← Nat.two_mul, ← Nat.pow_succ']; congr 1; omega
  rw [fractionField, Nat.shiftLeft_eq, Nat.mod_eq_sub_mod hlow, Nat.mod_eq_of_lt (by omega)]
  omega

/-- The exact value of a normal number with these fields (42_prng.md R187). -/
theorem value_of_fields {bias m k : Nat} (h0 : k ≠ 0) (hk : k < 2 ^ (m + 1)) (hbias : m + 1 ≤ bias) :
    (1 + (fractionField m k : ℚ) / 2 ^ m) * (2 : ℚ) ^ ((exponentField bias m k : ℤ) - bias) =
      (k : ℚ) / 2 ^ (m + 1) := by
  have hlog : k.log2 ≤ m := Nat.lt_succ_iff.mp ((Nat.log2_lt h0).mpr hk)
  have hfrac : (2 : ℚ) ^ m + fractionField m k = k * 2 ^ (m - k.log2) := by
    exact_mod_cast two_pow_add_fractionField h0 hk
  have hexp : (exponentField bias m k : ℤ) - bias = -((m + 1 - k.log2 : ℕ) : ℤ) := by
    rw [exponentField]; omega
  have hpow : (2 : ℚ) ^ (m + 1 - k.log2) = 2 ^ (m - k.log2) * 2 := by
    rw [← pow_succ]; congr 1; omega
  have hone : 1 + (fractionField m k : ℚ) / 2 ^ m = k * 2 ^ (m - k.log2) / 2 ^ m := by
    rw [← hfrac, add_div, div_self (by positivity)]
  rw [hexp, zpow_neg, zpow_natCast, hone, hpow, pow_succ]
  field_simp

/-! ### The fields of the pattern -/

/-- A word of `m` low bits and `e` bits above them has those fields, and 0 above them. -/
theorem fields_of_pattern {w m e x y : Nat} (hw : m + e < w) (hx : x < 2 ^ e) (hy : y < 2 ^ m) :
    ((BitVec.ofNat w ((x <<< m) ||| y)).extractLsb' m e).toNat = x ∧
      ((BitVec.ofNat w ((x <<< m) ||| y)).extractLsb' 0 m).toNat = y ∧
      (BitVec.ofNat w ((x <<< m) ||| y)).getLsbD (m + e) = false := by
  have hsum : (x <<< m) ||| y = 2 ^ m * x + y := by
    rw [Nat.shiftLeft_eq, Nat.mul_comm]; exact (Nat.two_pow_add_eq_or_of_lt hy x).symm
  have hlt : 2 ^ m * x + y < 2 ^ (m + e) := by
    calc 2 ^ m * x + y < 2 ^ m * (x + 1) := by rw [Nat.mul_succ]; omega
      _ ≤ 2 ^ (m + e) := by rw [Nat.pow_add]; exact Nat.mul_le_mul_left _ hx
  have hnat : (BitVec.ofNat w ((x <<< m) ||| y)).toNat = 2 ^ m * x + y := by
    rw [BitVec.toNat_ofNat, hsum, Nat.mod_eq_of_lt (hlt.trans (Nat.pow_lt_pow_right (by decide) hw))]
  refine ⟨?_, ?_, ?_⟩
  · rw [BitVec.extractLsb'_toNat, hnat, Nat.shiftRight_eq_div_pow, Nat.mul_add_div (by positivity),
      Nat.div_eq_of_lt hy, Nat.add_zero, Nat.mod_eq_of_lt hx]
  · rw [BitVec.extractLsb'_toNat, hnat, Nat.shiftRight_zero, Nat.mul_add_mod, Nat.mod_eq_of_lt hy]
  · rw [BitVec.getLsbD, hnat, Nat.testBit_lt_two_pow hlt]

theorem exponentField_bounds {bias m k : Nat} (h0 : k ≠ 0) (hk : k < 2 ^ (m + 1)) (hbias : m + 1 < bias) :
    0 < exponentField bias m k ∧ exponentField bias m k < bias := by
  have hlog : k.log2 < m + 1 := (Nat.log2_lt h0).mpr hk
  rw [exponentField]
  omega

/-- The pattern in any format that has room for its exponent: sign 0, a normal exponent, the exact value. -/
theorem normalPattern_exact {w m e bias k : Nat} (h0 : k ≠ 0) (hk : k < 2 ^ (m + 1)) (hw : m + e < w)
    (hlow : m + 1 < bias) (hhigh : bias < 2 ^ e) :
    (normalPattern w bias m k).getLsbD (m + e) = false ∧
      0 < ((normalPattern w bias m k).extractLsb' m e).toNat ∧
      ((normalPattern w bias m k).extractLsb' m e).toNat < 2 ^ e - 1 ∧
      (1 + (((normalPattern w bias m k).extractLsb' 0 m).toNat : ℚ) / 2 ^ m) *
          (2 : ℚ) ^ ((((normalPattern w bias m k).extractLsb' m e).toNat : ℤ) - bias) =
        (k : ℚ) / 2 ^ (m + 1) := by
  obtain ⟨hpos, hlt⟩ := exponentField_bounds h0 hk hlow
  obtain ⟨hexp, hfrac, hsign⟩ := fields_of_pattern hw (hlt.trans hhigh) (fractionField_lt m k)
  rw [normalPattern, hexp, hfrac]
  exact ⟨hsign, hpos, by omega, value_of_fields h0 hk hlow.le⟩

/-- Settles O37: both formats are cases of one; the examples are closed calls. -/
theorem uniformPatternsAreExact : Obligations.UniformPatternsAreExact := by
  refine ⟨by decide, by decide, by decide, by decide, by decide, by decide, by decide, by decide,
    fun k hne hk => ?_, fun k hne hk => ?_⟩
  · have h0 : k.toNat ≠ 0 := BitVec.toNat_ne_iff_ne.mpr hne
    rw [f32Of_eq hne]
    exact normalPattern_exact (e := 8) h0 hk (by decide) (by decide) (by decide)
  · have h0 : k.toNat ≠ 0 := BitVec.toNat_ne_iff_ne.mpr hne
    rw [f64Of_eq hne]
    exact normalPattern_exact (e := 11) h0 hk (by decide) (by decide) (by decide)

end Sys2Proof.Machine
end

section
/-!
PROOF. The bounded sampler: the first draw that is not rejected is delivered, and the results are in range and equally
frequent (43_sampler.md R210 to R213).
-/

namespace Sys2Proof.Machine

open Sys2Proof

/-! ### Acceptance, and the sample of an accepted draw -/

theorem toNat_pos_of_ne_zero {w : Nat} {x : BitVec w} (h : x ≠ 0) : 0 < x.toNat :=
  Nat.pos_of_ne_zero fun h0 => h (BitVec.eq_of_toNat_eq (by simpa using h0))

theorem hiHalf_wideMul {w : Nat} (limit x : BitVec w) : hiHalf w (wideMul x limit) = highHalf limit x := rfl

theorem threshold_lt {w : Nat} {limit : BitVec w} (hl : 0 < limit.toNat) : threshold limit < limit.toNat :=
  Nat.mod_lt _ hl

/-- The threshold is what `floor(2^W / limit)` times the limit leaves of `2^W`. -/
theorem threshold_eq {w : Nat} (limit : BitVec w) : threshold limit = 2 ^ w % limit.toNat :=
  (Nat.mod_eq_sub_mod limit.isLt.le).symm

/-- No bit of the high half is lost: it is below `2^W` already. -/
theorem toNat_highHalf {w : Nat} (limit x : BitVec w) :
    (highHalf limit x).toNat = x.toNat * limit.toNat / 2 ^ w :=
  Nat.mod_eq_of_lt (Nat.div_lt_of_lt_mul (Nat.mul_lt_mul'' x.isLt limit.isLt))

theorem highHalf_lt {w : Nat} {limit : BitVec w} (hl : 0 < limit.toNat) (x : BitVec w) :
    (highHalf limit x).toNat < limit.toNat := by
  rw [toNat_highHalf]
  exact Nat.div_lt_of_lt_mul (Nat.mul_lt_mul_of_pos_right x.isLt hl)

/-! ### The bound of the loop is never in the way -/

theorem card_quad_le (w : Nat) : Nat.card (Quad w) ≤ redrawBound w := by
  have hword : Nat.card (BitVec w) = 2 ^ w := (Nat.card_congr BitVec.equivFin.toEquiv).trans (Nat.card_fin _)
  have hinj : Function.Injective fun f : Quad w => (f.w0, f.w1, f.w2, f.w3) := fun f g h => by
    cases f; cases g; simp_all
  calc Nat.card (Quad w) ≤ Nat.card (BitVec w × BitVec w × BitVec w × BitVec w) :=
        Nat.card_le_card_of_injective _ hinj
    _ = redrawBound w := by rw [Nat.card_prod, Nat.card_prod, Nat.card_prod, hword, redrawBound]; ring

/-- An iteration that meets `P` for the first time after `n` steps has met `n + 1` values, no two of them equal: from
an equal one on, it would have met `P` earlier. -/
theorem lt_card_of_first {α : Type} [Finite α] {f : α → α} {x : α} {P : α → Prop} {n : Nat}
    (hbefore : ∀ j, j < n → ¬ P (f^[j] x)) (hn : P (f^[n] x)) : n < Nat.card α := by
  have hne : ∀ i j, i < j → j ≤ n → f^[i] x ≠ f^[j] x := by
    intro i j hij hjn heq
    refine hbefore (n - j + i) (by omega) ?_
    rwa [Function.iterate_add_apply, heq, ← Function.iterate_add_apply, Nat.sub_add_cancel hjn]
  have hinj : Function.Injective fun i : Fin (n + 1) => f^[i.val] x := by
    intro i j heq
    rcases lt_trichotomy i j with hij | hij | hij
    · exact absurd heq (hne i j hij (by omega))
    · exact hij
    · exact absurd heq.symm (hne j i hij (by omega))
  simpa using Nat.card_le_card_of_injective _ hinj

/-! ### The loop delivers the first accepted draw -/

section loop

variable {w : Nat} {σ : Type} {draw : σ → BitVec w × σ} {limit : BitVec w} {st : σ} {n : Nat}

/-- The file after `n` draws. -/
def drawn (draw : σ → BitVec w × σ) (n : Nat) (st : σ) : σ := (fun f => (draw f).2)^[n] st

/-- The first test of R210 decides nothing of its own: a low half that is not below the limit is not below the
threshold either. -/
theorem bounded_eq_redraw (hl : 0 < limit.toNat) :
    bounded draw limit st = redraw draw limit (redrawBound w) (wideMul (draw st).1 limit) (draw st).2 := by
  unfold bounded
  split
  · rfl
  · next h => exact (redraw_accept draw (by have := threshold_lt hl; omega) _ _).symm

theorem redraw_first {bound : Nat} (hn : n ≤ bound)
    (hrej : ∀ j, j < n → Rejected limit (draw (drawn draw j st)).1)
    (hacc : ¬ Rejected limit (draw (drawn draw n st)).1) :
    redraw draw limit bound (wideMul (draw st).1 limit) (draw st).2 =
      some (highHalf limit (draw (drawn draw n st)).1, drawn draw (n + 1) st) := by
  induction n generalizing st bound with
  | zero => exact redraw_accept draw hacc bound _
  | succ n ih =>
    obtain ⟨bound, rfl⟩ : ∃ k, bound = k + 1 := ⟨bound - 1, by omega⟩
    have hfirst : loHalf w (wideMul (draw st).1 limit) < threshold limit := hrej 0 (by omega)
    rw [redraw_reject draw hfirst]
    exact ih (by omega) (fun j hj => hrej (j + 1) (by omega)) hacc

/-- What the loop delivers is the high half of some draw's product. -/
theorem redraw_sample {bound : Nat} {x r : BitVec w} {f : σ}
    (h : redraw draw limit bound (wideMul x limit) st = some (r, f)) : ∃ y, r = highHalf limit y := by
  induction bound generalizing x st with
  | zero =>
    simp only [redraw] at h
    split at h
    · cases h
    · cases h; exact ⟨x, rfl⟩
  | succ bound ih =>
    simp only [redraw] at h
    split at h
    · exact ih h
    · cases h; exact ⟨x, rfl⟩

theorem bounded_lt {r : BitVec w} {f : σ} (hl : 0 < limit.toNat) (h : bounded draw limit st = some (r, f)) :
    r.toNat < limit.toNat := by
  rw [bounded_eq_redraw hl] at h
  obtain ⟨y, rfl⟩ := redraw_sample h
  exact highHalf_lt hl y

end loop

/-- On a four-word file every first accepted draw comes within the model's bound, so R210 holds with no bound. -/
theorem bounded_first {w : Nat} {draw : Quad w → BitVec w × Quad w} {limit : BitVec w} {st : Quad w} {n : Nat}
    (hl : 0 < limit.toNat) (hrej : ∀ j, j < n → Rejected limit (draw (drawn draw j st)).1)
    (hacc : ¬ Rejected limit (draw (drawn draw n st)).1) :
    bounded draw limit st = some (highHalf limit (draw (drawn draw n st)).1, drawn draw (n + 1) st) := by
  have := finite_quad w
  have hn : n < Nat.card (Quad w) :=
    lt_card_of_first (P := fun f => ¬ Rejected limit (draw f).1) (fun j hj => not_not_intro (hrej j hj)) hacc
  rw [bounded_eq_redraw hl, redraw_first (hn.le.trans (card_quad_le w)) hrej hacc]

section sample

variable {s t : State} {n : Nat}

theorem State.sampleG32_first {min limit : U32} (hl : 0 < limit.toNat)
    (hrej : ∀ j, j < n → Rejected limit (s.drawG32 j)) (hacc : ¬ Rejected limit (s.drawG32 n)) :
    s.sampleG32 min limit = .next
      { s with
        g32 := s.fileG32After (n + 1), res0 := (min + highHalf limit (s.drawG32 n)).setWidth 64, status := 0 } := by
  rw [State.sampleG32, bounded_first (draw := stepG32 s.par) hl hrej hacc]
  rfl

theorem State.sampleG64_first {min limit : U64} (hl : 0 < limit.toNat)
    (hrej : ∀ j, j < n → Rejected limit (s.drawG64 j)) (hacc : ¬ Rejected limit (s.drawG64 n)) :
    s.sampleG64 min limit = .next
      { s with g64 := s.fileG64After (n + 1), res0 := min + highHalf limit (s.drawG64 n), status := 0 } := by
  rw [State.sampleG64, bounded_first (draw := stepG64 s.par) hl hrej hacc]
  simp only [State.withRes0_succeed, BitVec.setWidth_eq]
  rfl

/-- `min` plus a sample, where the sum does not wrap, is in `[min, min + limit)`, zero-extended or not. -/
theorem sample_mem_range {w : Nat} (hw : w ≤ 64) {min limit r : BitVec w} (hr : r.toNat < limit.toNat)
    (hsum : min.toNat + limit.toNat ≤ 2 ^ w) :
    min.toNat ≤ ((min + r).setWidth 64).toNat ∧ ((min + r).setWidth 64).toNat < min.toNat + limit.toNat := by
  rw [BitVec.toNat_setWidth_of_le hw, BitVec.toNat_add_of_lt (by omega)]
  omega

theorem State.sampleG32_mem_range {min limit : U32} (hl : 0 < limit.toNat) (hsum : min.toNat + limit.toNat ≤ 2 ^ 32)
    (h : s.sampleG32 min limit = .next t) :
    min.toNat ≤ t.res0.toNat ∧ t.res0.toNat < min.toNat + limit.toNat := by
  obtain ⟨r, f, hb, rfl⟩ := State.sampleG32_next h
  exact sample_mem_range (by decide) (bounded_lt hl hb) hsum

theorem State.sampleG64_mem_range {min limit : U64} (hl : 0 < limit.toNat) (hsum : min.toNat + limit.toNat ≤ 2 ^ 64)
    (h : s.sampleG64 min limit = .next t) :
    min.toNat ≤ t.res0.toNat ∧ t.res0.toNat < min.toNat + limit.toNat := by
  obtain ⟨r, f, hb, rfl⟩ := State.sampleG64_next h
  exact sample_mem_range (by decide) (bounded_lt hl hb) hsum

end sample

/-! ### The commands on an initialised generator -/

section exec

variable {s t : State}

theorem exec_gbound_g32 (h : isInited s.ginited .g32 = true) : exec (.gbound .g32) s =
    if (s.opa.setWidth 32 : U32) = 0 then .next { s with status := 3 } else s.sampleG32 0 (s.opa.setWidth 32) := by
  rw [exec, execGbound, needsInit_of_inited h]
  rfl

theorem exec_gbound_g64 (h : isInited s.ginited .g64 = true) : exec (.gbound .g64) s =
    if s.opa = 0 then .next { s with status := 3 } else s.sampleG64 0 s.opa := by
  rw [exec, execGbound, needsInit_of_inited h, State.opaLow, BitVec.setWidth_eq]
  rfl

theorem exec_grange_g32 (h : isInited s.ginited .g32 = true) : exec (.grange .g32) s =
    if (s.opb.setWidth 32 : U32).toNat ≤ (s.opa.setWidth 32 : U32).toNat then .next { s with status := 3 }
    else s.sampleG32 (s.opa.setWidth 32) (s.opb.setWidth 32 - s.opa.setWidth 32) := by
  rw [exec, execGrange, needsInit_of_inited h]
  rfl

theorem exec_grange_g64 (h : isInited s.ginited .g64 = true) : exec (.grange .g64) s =
    if s.opb.toNat ≤ s.opa.toNat then .next { s with status := 3 } else s.sampleG64 s.opa (s.opb - s.opa) := by
  rw [exec, execGrange, needsInit_of_inited h, State.opaLow, State.opbLow, BitVec.setWidth_eq, BitVec.setWidth_eq]
  rfl

/-- A stepping command that ends `OK` has passed the check of `GINITED`. -/
theorem inited_of_ok {v : Variant} {i : Instr} (hi : i ∈ [Instr.gnext v, .gjump v, .gunif v, .gbound v, .grange v])
    (hw : i.wellFormed = true) (h : exec i s = .next t) (hok : codeField t.status = 0) :
    isInited s.ginited v = true := by
  by_contra hu
  have hn := uninitialisedGeneratorRaisesNoinit s v i hi hw (by simpa using hu)
  obtain rfl := Host.Outcome.next.inj (hn.symm.trans h)
  exact absurd hok (show ¬ codeField 4 = 0 by decide)

/-- A sampler that ends `OK` has passed the check of its operands, and its sampling ended. -/
theorem sample_of_ok {c : Prop} [Decidable c] {o : Host.Outcome State Fault Refusal}
    (h : (if c then .next { s with status := 3 } else o) = .next t) (hok : codeField t.status = 0) :
    ¬ c ∧ o = .next t := by
  split at h
  · obtain rfl := Host.Outcome.next.inj h
    exact absurd hok (show ¬ codeField 3 = 0 by decide)
  · next hc => exact ⟨hc, h⟩

end exec

/-! ### The statements about single commands -/

/-- Settles O41: the check of the operands comes before the sampling. -/
theorem samplerPreconditionsFailFast : Obligations.SamplerPreconditionsFailFast := by
  refine fun s => ⟨fun hi => ⟨fun h => ?_, fun h => ?_⟩, fun hi => ⟨fun h => ?_, fun h => ?_⟩⟩
  · rw [exec_gbound_g32 hi, if_pos h]
  · rw [exec_grange_g32 hi, if_pos h]
  · rw [exec_gbound_g64 hi, if_pos h]
  · rw [exec_grange_g64 hi, if_pos h]

/-- Settles O39: past the check of the limit, `GBOUND` is the sampling with `min` = 0. -/
theorem gboundDeliversTheFirstAcceptedDraw : Obligations.GboundDeliversTheFirstAcceptedDraw := by
  refine fun s n => ⟨fun hi hl hrej hacc => ?_, fun hi hl hrej hacc => ?_⟩
  · rw [exec_gbound_g32 hi, if_neg hl, State.sampleG32_first (toNat_pos_of_ne_zero hl) hrej hacc, zero_add]
  · rw [exec_gbound_g64 hi, if_neg hl, State.sampleG64_first (toNat_pos_of_ne_zero hl) hrej hacc, zero_add]

/-- The width of a range that is not empty. -/
theorem toNat_sub_pos {w : Nat} {min max : BitVec w} (h : min.toNat < max.toNat) : 0 < (max - min).toNat := by
  rw [BitVec.toNat_sub_of_le (BitVec.le_def.mpr h.le)]
  omega

/-- A range ends at its `max`, with no wrap. -/
theorem toNat_add_toNat_sub {w : Nat} {min max : BitVec w} (h : min.toNat < max.toNat) :
    min.toNat + (max - min).toNat = max.toNat := by
  rw [BitVec.toNat_sub_of_le (BitVec.le_def.mpr h.le)]
  omega

/-- Settles O40: past the check of the range, `GRANGE` is the sampling with the range's width as the limit. -/
theorem grangeAddsTheFirstAcceptedDraw : Obligations.GrangeAddsTheFirstAcceptedDraw := by
  refine fun s n => ⟨fun hi hlt hrej hacc => ?_, fun hi hlt hrej hacc => ?_⟩
  · rw [exec_grange_g32 hi, if_neg (Nat.not_le.mpr hlt), State.sampleG32_first (toNat_sub_pos hlt) hrej hacc]
  · rw [exec_grange_g64 hi, if_neg (Nat.not_le.mpr hlt), State.sampleG64_first (toNat_sub_pos hlt) hrej hacc]

/-- Settles O43: `OK` is left only where a sampling ended, and `min` plus a sample is in range. -/
theorem samplesStayInRange : Obligations.SamplesStayInRange := by
  refine fun s t hok => ⟨fun h => ?_, fun h => ?_, fun h => ?_, fun h => ?_⟩
  · rw [exec_gbound_g32 (inited_of_ok (by simp) rfl h hok)] at h
    obtain ⟨hl, h⟩ := sample_of_ok h hok
    simpa using (State.sampleG32_mem_range (toNat_pos_of_ne_zero hl) (by simp; omega) h).2
  · rw [exec_gbound_g64 (inited_of_ok (by simp) rfl h hok)] at h
    obtain ⟨hl, h⟩ := sample_of_ok h hok
    simpa using (State.sampleG64_mem_range (toNat_pos_of_ne_zero hl) (by simp; omega) h).2
  · rw [exec_grange_g32 (inited_of_ok (by simp) rfl h hok)] at h
    obtain ⟨hlt, h⟩ := sample_of_ok h hok
    have hsum := toNat_add_toNat_sub (Nat.not_le.mp hlt)
    rw [← hsum]
    exact State.sampleG32_mem_range (toNat_sub_pos (Nat.not_le.mp hlt)) (hsum ▸ (BitVec.isLt _).le) h
  · rw [exec_grange_g64 (inited_of_ok (by simp) rfl h hok)] at h
    obtain ⟨hlt, h⟩ := sample_of_ok h hok
    have hsum := toNat_add_toNat_sub (Nat.not_le.mp hlt)
    rw [← hsum]
    exact State.sampleG64_mem_range (toNat_sub_pos (Nat.not_le.mp hlt)) (hsum ▸ (BitVec.isLt _).le) h

/-! ### No result is preferred -/

/-- A draw is accepted with result `r` exactly where its product is one of the `2^W - t` highest values that have the
high half `r`. -/
theorem accepted_iff_product {w : Nat} {limit r x : BitVec w} :
    ¬ loHalf w (wideMul x limit) < threshold limit ∧ hiHalf w (wideMul x limit) = r ↔
      r.toNat * 2 ^ w + threshold limit ≤ x.toNat * limit.toNat ∧
        x.toNat * limit.toNat < (r.toNat + 1) * 2 ^ w := by
  have hdiv := Nat.div_add_mod' (x.toNat * limit.toNat) (2 ^ w)
  have hmod : x.toNat * limit.toNat % 2 ^ w < 2 ^ w := Nat.mod_lt _ (by positivity)
  rw [hiHalf_wideMul, ← BitVec.toNat_inj, toNat_highHalf, loHalf, wideMul, Nat.add_mul]
  constructor
  · rintro ⟨hlo, hr⟩
    rw [hr] at hdiv
    omega
  · rintro ⟨hlo, hhi⟩
    have hr : x.toNat * limit.toNat / 2 ^ w = r.toNat := by
      rw [Nat.div_eq_iff (by positivity)]
      omega
    rw [hr] at hdiv
    exact ⟨by omega, hr⟩

/-- The multiples of `l` in an interval of `q * l` values are those of `q` successive factors. -/
theorem mul_mem_interval_iff {l : Nat} (hl : 0 < l) (b q x : Nat) :
    b ≤ x * l ∧ x * l < b + q * l ↔ x ∈ Finset.Ico (b ⌈/⌉ l) (b ⌈/⌉ l + q) := by
  have hlower : ∀ y, b ⌈/⌉ l ≤ y ↔ b ≤ y * l := fun y => by rw [ceilDiv_le_iff_le_mul hl, Nat.mul_comm]
  have hupper : x < b ⌈/⌉ l + q ↔ x * l < b + q * l := by
    rcases Nat.lt_or_ge x q with hx | hx
    · have := Nat.mul_lt_mul_of_pos_right hx hl
      omega
    · obtain ⟨y, rfl⟩ := Nat.exists_eq_add_of_le' hx
      rw [Nat.add_mul, Nat.add_lt_add_iff_right, Nat.add_lt_add_iff_right, ← Nat.not_le, hlower, Nat.not_le]
  rw [Finset.mem_Ico, hlower, hupper]

/-- The values of the draw accepted with result `r` (43_sampler.md R213): `floor(2^W / limit)` successive ones. -/
def acceptedDraws {w : Nat} (limit r : BitVec w) : Finset Nat :=
  let first := (r.toNat * 2 ^ w + threshold limit) ⌈/⌉ limit.toNat
  Finset.Ico first (first + 2 ^ w / limit.toNat)

theorem card_acceptedDraws {w : Nat} (limit r : BitVec w) : (acceptedDraws limit r).card = 2 ^ w / limit.toNat := by
  rw [acceptedDraws, Nat.card_Ico, Nat.add_sub_cancel_left]

theorem mem_acceptedDraws_iff {w : Nat} {limit : BitVec w} (hl : 0 < limit.toNat) (r : BitVec w) (k : Nat) :
    k ∈ acceptedDraws limit r ↔
      r.toNat * 2 ^ w + threshold limit ≤ k * limit.toNat ∧ k * limit.toNat < (r.toNat + 1) * 2 ^ w := by
  have hpow : threshold limit + 2 ^ w / limit.toNat * limit.toNat = 2 ^ w := by
    rw [threshold_eq, Nat.add_comm]
    exact Nat.div_add_mod' _ _
  rw [acceptedDraws, ← mul_mem_interval_iff hl, Nat.add_assoc, hpow, Nat.add_mul, Nat.one_mul]

/-- The accepted values of a result below the limit fit in a draw of `W` bits. -/
theorem lt_of_mem_acceptedDraws {w : Nat} {limit r : BitVec w} (hr : r.toNat < limit.toNat) {k : Nat}
    (hk : k ∈ acceptedDraws limit r) : k < 2 ^ w := by
  obtain ⟨-, hk⟩ := (mem_acceptedDraws_iff (by omega) r k).mp hk
  have hle : (r.toNat + 1) * 2 ^ w ≤ limit.toNat * 2 ^ w := Nat.mul_le_mul_right _ hr
  exact Nat.lt_of_mul_lt_mul_left ((Nat.mul_comm _ _).trans_lt (hk.trans_le hle))

/-- Settles O44: read as numbers, the draws accepted with result `r` are `acceptedDraws`. -/
theorem everyResultIsAcceptedEquallyOften : Obligations.EveryResultIsAcceptedEquallyOften := by
  intro w limit r hr
  have hmem := mem_acceptedDraws_iff (Nat.zero_lt_of_lt hr) r
  have himage : BitVec.toNat '' {x : BitVec w |
      ¬ loHalf w (wideMul x limit) < threshold limit ∧ hiHalf w (wideMul x limit) = r} = acceptedDraws limit r := by
    ext k
    constructor
    · rintro ⟨x, hx, rfl⟩
      exact (hmem x.toNat).mpr (accepted_iff_product.mp hx)
    · intro hk
      exact ⟨BitVec.ofNatLT k (lt_of_mem_acceptedDraws hr hk), accepted_iff_product.mpr ((hmem k).mp hk), rfl⟩
  rw [← Set.ncard_image_of_injective _ BitVec.toNat_injective, himage, Set.ncard_coe_finset, card_acceptedDraws]

end Sys2Proof.Machine
end

section
/-!
PROOF. The probe and the capability query, the attempt loop, and what the entropy commands do with it
(44_capability_entropy.md R221 to R231).
-/

namespace Sys2Proof.Machine

open Sys2Proof

/-! ### The attempt loop -/

/-- Attempts that fail are used up, and the loop goes on with what is left of its bound. -/
theorem acquire_of_failed {free : Nat → Attempt} (n : Nat) {k : Nat} {q : Feed Attempt}
    (hfail : ∀ j, j < k → (q.answer free j).ok = false) : acquire free (k + n) q = acquire free n (q.after k) := by
  induction k generalizing q with
  | zero => rw [Nat.zero_add, Feed.after_zero]
  | succ k ih =>
    have hrest : ∀ j, j < k → ((q.after 1).answer free j).ok = false := fun j hj => by
      rw [Feed.answer_after]
      exact hfail (1 + j) (by omega)
    rw [Nat.succ_add, acquire_succ_fail (hfail 0 k.succ_pos), ih hrest, Feed.after_after, Nat.add_comm 1 k]

theorem acquire_of_first {free : Nat → Attempt} {n k : Nat} {q : Feed Attempt} (hk : k < n)
    (hfail : ∀ j, j < k → (q.answer free j).ok = false) (hok : (q.answer free k).ok = true) :
    acquire free n q = (some (q.answer free k).data, q.after (k + 1)) := by
  obtain ⟨m, rfl⟩ := Nat.exists_eq_add_of_lt hk
  have hfirst : (q.after k).answer free 0 = q.answer free k := Feed.answer_after free q k 0
  rw [Nat.add_assoc, acquire_of_failed (m + 1) hfail, acquire_succ_ok (by rw [hfirst, hok]), hfirst, Feed.after_after]

theorem acquire_of_all_failed {free : Nat → Attempt} {n : Nat} {q : Feed Attempt}
    (hfail : ∀ j, j < n → (q.answer free j).ok = false) : acquire free n q = (none, q.after n) :=
  acquire_of_failed 0 hfail

/-- Settles O49: the failed attempts are used up first, then the next one succeeds or the bound is reached. -/
theorem acquireMakesBoundedAttempts : Obligations.AcquireMakesBoundedAttempts :=
  ⟨fun _ => ⟨rfl, rfl⟩, rfl, rfl, fun _ _ _ =>
    ⟨fun _ hk hfail hok => acquire_of_first hk hfail hok, acquire_of_all_failed⟩⟩

/-! ### The two sources, in terms of what the loop gives -/

@[simp] theorem State.acquireFast_afterCap (f : Feature) (s : State) : (s.afterCap f).acquireFast = s.acquireFast := by
  simp [State.acquireFast]

@[simp] theorem State.acquireEnt_afterCap (f : Feature) (s : State) : (s.afterCap f).acquireEnt = s.acquireEnt := by
  simp [State.acquireEnt]

theorem State.deliverFast_eq (s : State) (d : U64) :
    s.deliverFast d = { s with fast := s.acquireFast.2, res0 := d, status := 0x20 } := by
  rw [State.deliverFast, State.withRes0, BitVec.setWidth_eq]
  rfl

theorem State.deliverEnt_eq (s : State) (d : U64) :
    s.deliverEnt d = { s with ent := s.acquireEnt.2, res0 := d, status := 0x10 } := by
  rw [State.deliverEnt, State.withRes0, BitVec.setWidth_eq]
  rfl

section sources

variable {s : State} {d : U64} {q : Feed Attempt}

theorem exec_tryfast_unavailable (hc : s.capAvailable .fast = false) :
    exec .tryfast s = .next { s.afterCap .fast with status := 1 } := by
  rw [exec, execTryfast, if_neg (by simp [hc])]
  rfl

theorem exec_tryfast_delivered (hc : s.capAvailable .fast = true) (h : s.acquireFast = (some d, q)) :
    exec .tryfast s = .next { s.afterCap .fast with fast := q, res0 := d, status := 0x20 } := by
  simp only [exec, execTryfast, hc, if_true, State.tryFast, State.deliverFast_eq, State.acquireFast_afterCap, h]

theorem exec_tryfast_exhausted (hc : s.capAvailable .fast = true) (h : s.acquireFast = (none, q)) :
    exec .tryfast s = .next { s.afterCap .fast with fast := q, status := 2 } := by
  simp only [exec, execTryfast, hc, if_true, State.tryFast, State.acquireFast_afterCap, h]
  rfl

theorem exec_tryent_unavailable (hc : s.capAvailable .ent = false) :
    exec .tryent s = .next { s.afterCap .ent with status := 1 } := by
  rw [exec, execTryent, if_neg (by simp [hc])]
  rfl

theorem exec_tryent_delivered (hc : s.capAvailable .ent = true) (h : s.acquireEnt = (some d, q)) :
    exec .tryent s = .next { s.afterCap .ent with ent := q, res0 := d, status := 0x10 } := by
  simp only [exec, execTryent, hc, if_true, State.tryEnt, State.deliverEnt_eq, State.acquireEnt_afterCap, h]

theorem exec_tryent_exhausted (hc : s.capAvailable .ent = true) (h : s.acquireEnt = (none, q)) :
    exec .tryent s = .next { s.afterCap .ent with ent := q, status := 2 } := by
  simp only [exec, execTryent, hc, if_true, State.tryEnt, State.acquireEnt_afterCap, h]
  rfl

end sources

/-- Settles O50: behind the gate the command is the loop on the fast source. -/
theorem tryfastOutcomes : Obligations.TryfastOutcomes :=
  ⟨decodeWord_encode (i := .tryfast) rfl, fun _ => ⟨exec_tryfast_unavailable, fun hc =>
    ⟨fun _ hk hfail hok => exec_tryfast_delivered hc (acquire_of_first hk hfail hok),
      fun hfail => exec_tryfast_exhausted hc (acquire_of_all_failed hfail)⟩⟩⟩

/-- Settles O51: behind the gate the command is the loop on the entropy source. -/
theorem tryentOutcomes : Obligations.TryentOutcomes :=
  ⟨decodeWord_encode (i := .tryent) rfl, fun _ => ⟨exec_tryent_unavailable, fun hc =>
    ⟨fun _ hk hfail hok => exec_tryent_delivered hc (acquire_of_first hk hfail hok),
      fun hfail => exec_tryent_exhausted hc (acquire_of_all_failed hfail)⟩⟩⟩

/-! ### The chain of `AUTOSEED` -/

/-- What the entropy step of `AUTOSEED` leaves where it does not deliver: its cell filled, and all its attempts made if
the source is there. -/
def State.pastEnt (s : State) : State :=
  if s.capAvailable .ent = true then { s.afterCap .ent with ent := s.ent.after s.par.entAttempts } else s.afterCap .ent

/-- What the fast step of `AUTOSEED` leaves where it does not deliver. -/
def State.pastFast (s : State) : State :=
  if s.capAvailable .fast = true then { s.afterCap .fast with fast := s.fast.after s.par.fastAttempts }
  else s.afterCap .fast

section chain

variable {s : State} {d : U64} {q : Feed Attempt}

theorem exec_autoseed (s : State) : exec .autoseed s = .next s.seedFromEnt := rfl

theorem State.seedFromCycle_eq (s : State) : s.seedFromCycle =
    { s with cyc := s.cyc.after 1, res0 := mix64 s.par (s.cyc.answer Config.cycDraw 0), status := 0x30 } := by
  rw [State.seedFromCycle, Feed.draw_eq, State.withRes0, BitVec.setWidth_eq]
  rfl

theorem State.seedFromFast_delivered (hc : s.capAvailable .fast = true) (h : s.acquireFast = (some d, q)) :
    s.seedFromFast = { s.afterCap .fast with fast := q, res0 := d, status := 0x20 } := by
  simp only [State.seedFromFast, hc, if_true, State.deliverFast_eq, State.acquireFast_afterCap, h]

theorem State.seedFromEnt_delivered (hc : s.capAvailable .ent = true) (h : s.acquireEnt = (some d, q)) :
    s.seedFromEnt = { s.afterCap .ent with ent := q, res0 := d, status := 0x10 } := by
  simp only [State.seedFromEnt, hc, if_true, State.deliverEnt_eq, State.acquireEnt_afterCap, h]

/-- The cycle step follows where the fast source is not there or all its attempts fail. -/
theorem State.seedFromFast_undelivered
    (hfail : s.capAvailable .fast = true → ∀ j, j < s.par.fastAttempts → (s.fast.answer Config.fastDraw j).ok = false) :
    s.seedFromFast = s.pastFast.seedFromCycle := by
  cases hc : s.capAvailable .fast with
  | false => simp [State.seedFromFast, State.pastFast, hc]
  | true =>
    have h : s.acquireFast = (none, s.fast.after s.par.fastAttempts) := acquire_of_all_failed (hfail hc)
    simp [State.seedFromFast, State.pastFast, hc, h]

/-- The fast step follows where the entropy source is not there or all its attempts fail. -/
theorem State.seedFromEnt_undelivered
    (hfail : s.capAvailable .ent = true → ∀ j, j < s.par.entAttempts → (s.ent.answer Config.entDraw j).ok = false) :
    s.seedFromEnt = s.pastEnt.seedFromFast := by
  cases hc : s.capAvailable .ent with
  | false => simp [State.seedFromEnt, State.pastEnt, hc]
  | true =>
    have h : s.acquireEnt = (none, s.ent.after s.par.entAttempts) := acquire_of_all_failed (hfail hc)
    simp [State.seedFromEnt, State.pastEnt, hc, h]

theorem State.seedFromFast_status (s : State) : s.seedFromFast.status = 0x20 ∨ s.seedFromFast.status = 0x30 := by
  rcases s.seedFromFast_cases with ⟨_, d, _, h⟩ | ⟨_, _, h⟩ | ⟨_, h⟩ <;> rw [h]
  · exact .inl rfl
  · exact .inr rfl
  · exact .inr rfl

theorem State.seedFromEnt_status (s : State) :
    s.seedFromEnt.status = 0x10 ∨ s.seedFromEnt.status = 0x20 ∨ s.seedFromEnt.status = 0x30 := by
  rcases s.seedFromEnt_cases with ⟨_, d, _, h⟩ | ⟨_, _, h⟩ | ⟨_, h⟩ <;> rw [h]
  · exact .inl rfl
  · exact .inr (State.seedFromFast_status _)
  · exact .inr (State.seedFromFast_status _)

end chain

/-- Settles O52: each step of the chain delivers, or leaves `pastEnt`, `pastFast` to the next one. -/
theorem autoseedFollowsTheChain : Obligations.AutoseedFollowsTheChain := by
  refine ⟨decodeWord_encode (i := .autoseed) rfl, fun s => ⟨_, rfl, s.seedFromEnt_status⟩, fun s =>
    ⟨fun k hc hk hfail hok => ?_, fun hent => ?_⟩⟩
  · rw [exec_autoseed, State.seedFromEnt_delivered hc (acquire_of_first hk hfail hok)]
  · rw [exec_autoseed, State.seedFromEnt_undelivered hent]
    refine ⟨fun k hc hk hfail hok => ?_, fun hfast => ?_⟩
    · exact congrArg _ (State.seedFromFast_delivered hc (acquire_of_first hk hfail hok))
    · exact congrArg _ ((State.seedFromFast_undelivered hfast).trans (State.seedFromCycle_eq _))

/-! ### The probe and the capability query -/

theorem probe_of_not_applicable {p : Params} (h : p.archApplicable = false) (i : Ids) (f : Feature) :
    probe p i f = false := by
  simp only [probe, h, Bool.false_and]

/-- The probe reads of the parameters only `ARCH_APPLICABLE`. -/
theorem probe_congr {p q : Params} (h : p.archApplicable = q.archApplicable) (i : Ids) (f : Feature) :
    probe p i f = probe q i f := by
  simp only [probe, h]

/-- Settles O45: past `ARCH_APPLICABLE` each feature is one bit, `ENT` behind the leaf gate. -/
theorem probeReadsTheFeatureBits : Obligations.ProbeReadsTheFeatureBits := by
  refine fun p i => ⟨fun h => probe_of_not_applicable h i, fun h => ⟨?_, ?_, ?_⟩⟩
  · rw [probe, h, Bool.true_and]
  · rw [probe, h, Bool.true_and]
  · rw [probe, h, Bool.true_and, Bool.and_eq_true, decide_eq_true_iff]

theorem State.capAvailable_afterCap (f : Feature) (s : State) : (s.afterCap f).capAvailable f = s.capAvailable f := by
  rw [State.capAvailable, State.afterCap_afterCap]
  rfl

theorem exec_capq (f : Feature) (s : State) : exec (.capq f) s = .next
    { s.afterCap f with res0 := (if s.capAvailable f = true then 1 else 0), status := 0 } := by
  have hbit : ∀ b : Bool, (BitVec.ofBool b).setWidth 64 = if b = true then (1 : U64) else 0 := by decide
  rw [exec, execCapq, State.withRes0_succeed, hbit]

/-- The query of an `unknown` cell delivers the probe's answer and caches it. -/
theorem exec_capq_unknown {f : Feature} {s : State} (h : capCell s.caps f = 0) : exec (.capq f) s = .next
    { s with
      caps := setCapCell s.caps f (capAnswer (probe s.par s.ids f))
      res0 := (if probe s.par s.ids f = true then 1 else 0), status := 0 } := by
  rw [exec_capq, State.capAvailable_unknown h, State.afterCap_unknown h]

/-- The query of an `unknown` cell on an applicable architecture: with known words and cells its parts are closed. -/
theorem exec_capq_of_inputs {f : Feature} {s : State} {ids : Ids} {caps : U64} (ha : s.par.archApplicable = true)
    (hids : s.ids = ids) (hcaps : s.caps = caps) (h : capCell caps f = 0) : exec (.capq f) s = .next
    { s with
      caps := setCapCell caps f (capAnswer (probe Params.candidate ids f))
      res0 := (if probe Params.candidate ids f = true then 1 else 0), status := 0 } := by
  rw [exec_capq_unknown (hcaps ▸ h), probe_congr (q := Params.candidate) ha, hids, hcaps]

/-- Settles O47: the four examples are closed probes of `unknown` cells. -/
theorem capqDeliversTheAnswer : Obligations.CapqDeliversTheAnswer :=
  ⟨decodeWord_encode (i := .capq .crc) rfl, decodeWord_encode (i := .capq .fast) rfl,
    decodeWord_encode (i := .capq .ent) rfl, decodeWord_of_notMem (by decide), fun s f => exec_capq f s,
    fun s f => s.capAvailable_afterCap f, fun _ ha =>
    ⟨fun hids => ⟨fun hcaps => exec_capq_of_inputs ha hids hcaps (by decide),
      fun hcaps => exec_capq_of_inputs ha hids hcaps (by decide),
      fun hcaps => exec_capq_of_inputs ha hids hcaps (by decide)⟩,
      fun hids hcaps => exec_capq_of_inputs ha hids hcaps (by decide)⟩⟩

end Sys2Proof.Machine
end

section
/-!
PROOF. `NOP` writes `STATUS` only, and every other command changes more in some state (44_capability_entropy.md R220).
-/

namespace Sys2Proof.Machine

open Sys2Proof

/-! ### Telling that a command changes more than `STATUS` -/

/-- Some run of the command changes more than `STATUS`. -/
def ChangesMore (i : Instr) : Prop := ∃ s t : State, exec i s = .next t ∧ t ≠ { s with status := t.status }

theorem ChangesMore.of_part {i : Instr} {s t : State} {α : Type} (part : State → α)
    (hpart : ∀ x, part { s with status := x } = part s) (h : exec i s = .next t) (hne : part t ≠ part s) :
    ChangesMore i :=
  ⟨s, t, h, fun e => hne ((congrArg part e).trans (hpart _))⟩

theorem ChangesMore.of_file {i : Instr} {s t : State} (v : Variant) (h : exec i s = .next t)
    (hne : ¬ s.SameFile v t) : ChangesMore i := by
  refine ⟨s, t, h, fun e => hne ?_⟩
  rw [e]
  exact State.sameFile_of_eq v rfl rfl rfl rfl

/-! ### Two states in which the commands show what they change -/

/-- Right after reset with all generators initialised, and operands that every command accepts. -/
def seeded : State :=
  { State.reset with
    opa := 1, opb := 2, ginited := 0xF, g32 := ⟨1, 0, 0, 0⟩, g64 := ⟨1, 0, 0, 0⟩, gf := ⟨1, 0, 0, 0⟩, gd := ⟨1, 0⟩ }

/-- Right after reset on a platform that presents no feature. -/
def featureless : State := State.resetWith Params.candidate ⟨0, 0, 0⟩

theorem isInited_seeded (v : Variant) : isInited seeded.ginited v = true := by cases v <;> decide

theorem not_sameFile_advance_seeded (v : Variant) : ¬ seeded.SameFile v (seeded.advance v) := by
  cases v <;> simp only [State.SameFile] <;> decide

theorem not_sameFile_jumpFile_seeded (v : Variant) : ¬ seeded.SameFile v (seeded.jumpFile v) := by
  cases v <;> simp only [State.SameFile] <;> decide +kernel

theorem capAvailable_featureless (f : Feature) : featureless.capAvailable f = false := by cases f <;> decide

/-- An evaluation of `cap` right after reset fills its cell. -/
theorem caps_afterCap_featureless_ne (f : Feature) : (featureless.afterCap f).caps ≠ featureless.caps := fun e =>
  State.capCell_afterCap_ne_zero f featureless (by rw [e]; exact capCell_zero f)

theorem setInited_zero_ne (v : Variant) : setInited 0 v ≠ 0 := by cases v <;> decide

/-- With a limit of 1 no draw is rejected. -/
theorem not_rejected_of_limit_one {w : Nat} {limit : BitVec w} (h : limit.toNat = 1) (x : BitVec w) :
    ¬ Rejected limit x := by
  rw [Rejected, h, Nat.mod_one]
  exact Nat.not_lt_zero _

/-! ### Every command but `NOP`, by family -/

theorem changesMore_of_crcGate {i : Instr} (hi : i ∈ [Instr.crc8, .crc16, .crc32, .crc64, .hash32, .hash64]) :
    ChangesMore i :=
  .of_part State.caps (fun _ => rfl) (crcGateRaisesUnavail featureless i hi (capAvailable_featureless .crc))
    (caps_afterCap_featureless_ne .crc)

theorem changesMore_of_advance {i : Instr} {t : State} (v : Variant) (h : exec i seeded = .next t)
    (hfile : t.SameFile v (seeded.advance v)) : ChangesMore i :=
  .of_file v h fun hs => not_sameFile_advance_seeded v (hs.trans hfile)

theorem changesMore_gnext (v : Variant) : ChangesMore (.gnext v) :=
  changesMore_of_advance v (exec_gnext (isInited_seeded v)) (State.sameFile_of_eq v rfl rfl rfl rfl)

theorem changesMore_gjump (v : Variant) : ChangesMore (.gjump v) :=
  .of_file v (exec_gjump (isInited_seeded v)) fun hs =>
    not_sameFile_jumpFile_seeded v (hs.trans (State.sameFile_of_eq v rfl rfl rfl rfl))

theorem changesMore_gunif {v : Variant} (hv : v.isFloat = true) : ChangesMore (.gunif v) := by
  cases v with
  | gf => exact changesMore_of_advance .gf (exec_gunif_gf (isInited_seeded .gf)) rfl
  | gd => exact changesMore_of_advance .gd (exec_gunif_gd (isInited_seeded .gd)) rfl
  | g32 | g64 => cases hv

theorem changesMore_gbound {v : Variant} (hv : v.isInteger = true) : ChangesMore (.gbound v) := by
  obtain ⟨h32, h64⟩ := gboundDeliversTheFirstAcceptedDraw seeded 0
  have first32 := h32 (isInited_seeded .g32) (by decide) (by simp) (not_rejected_of_limit_one rfl _)
  have first64 := h64 (isInited_seeded .g64) (by decide) (by simp) (not_rejected_of_limit_one rfl _)
  cases v with
  | g32 => exact changesMore_of_advance .g32 first32 rfl
  | g64 => exact changesMore_of_advance .g64 first64 rfl
  | gf | gd => cases hv

theorem changesMore_grange {v : Variant} (hv : v.isInteger = true) : ChangesMore (.grange v) := by
  obtain ⟨h32, h64⟩ := grangeAddsTheFirstAcceptedDraw seeded 0
  have first32 := h32 (isInited_seeded .g32) (by decide) (by simp) (not_rejected_of_limit_one rfl _)
  have first64 := h64 (isInited_seeded .g64) (by decide) (by simp) (not_rejected_of_limit_one rfl _)
  cases v with
  | g32 => exact changesMore_of_advance .g32 first32 rfl
  | g64 => exact changesMore_of_advance .g64 first64 rfl
  | gf | gd => cases hv

theorem changesMore_ginit (v : Variant) : ChangesMore (.ginit v) :=
  .of_part State.ginited (fun _ => rfl) (exec_ginit v State.reset) (setInited_zero_ne v)

theorem changesMore_gadopt (v : Variant) : ChangesMore (.gadopt v) := by
  have hfile : { seeded with ginited := 0 }.fileZero v = false := by cases v <;> decide
  exact .of_part State.ginited (fun _ => rfl) (exec_gadopt_nonzero hfile) (setInited_zero_ne v)

/-- With neither source there, the chain ends in the cycle step, which samples `cyc`. -/
theorem changesMore_autoseed : ChangesMore .autoseed := by
  obtain ⟨-, -, hchain⟩ := autoseedFollowsTheChain
  obtain ⟨-, hrest⟩ := hchain featureless
  obtain ⟨-, hcycle⟩ := hrest fun h => absurd h (by decide)
  exact .of_part (fun s => s.cyc.used) (fun _ => rfl) (hcycle fun h => absurd h (by decide)) (by decide)

theorem changesMore_of_ne_nop {i : Instr} (hw : i.wellFormed = true) (hi : i ≠ .nop) : ChangesMore i := by
  cases i with
  | nop => exact absurd rfl hi
  | mix32 => exact .of_part State.res0 (fun _ => rfl) (exec_mix32 seeded) (by decide)
  | mix64 => exact .of_part State.res0 (fun _ => rfl) (exec_mix64 seeded) (by decide)
  | comb32 => exact .of_part State.res0 (fun _ => rfl) (exec_comb32 seeded) (by decide)
  | comb64 => exact .of_part State.res0 (fun _ => rfl) (exec_comb64 seeded) (by decide)
  | sxnext => exact .of_part State.sxacc (fun _ => rfl) (exec_sxnext seeded) (by decide)
  | crc8 | crc16 | crc32 | crc64 | hash32 | hash64 => exact changesMore_of_crcGate (by decide)
  | ginit v => exact changesMore_ginit v
  | gnext v => exact changesMore_gnext v
  | gjump v => exact changesMore_gjump v
  | gunif v => exact changesMore_gunif hw
  | gbound v => exact changesMore_gbound hw
  | grange v => exact changesMore_grange hw
  | gadopt v => exact changesMore_gadopt v
  | capq f => exact .of_part State.caps (fun _ => rfl) (exec_capq f featureless) (caps_afterCap_featureless_ne f)
  | tryfast =>
    exact .of_part State.caps (fun _ => rfl) (exec_tryfast_unavailable (capAvailable_featureless .fast))
      (caps_afterCap_featureless_ne .fast)
  | tryent =>
    exact .of_part State.caps (fun _ => rfl) (exec_tryent_unavailable (capAvailable_featureless .ent))
      (caps_afterCap_featureless_ne .ent)
  | autoseed => exact changesMore_autoseed

/-- Settles O15: every family of commands has a state in which it changes another register, a file or a source. -/
theorem nopWritesOnlyStatus : Obligations.NopWritesOnlyStatus :=
  ⟨decodeWord_encode (i := .nop) rfl, fun _ _ => rfl, fun _ => rfl, fun _ hw hi => changesMore_of_ne_nop hw hi⟩

end Sys2Proof.Machine
end

section
/-!
PROOF. What a command that fails changes, and which command can leave its `CMD` write held (60_exceptions.md R272, R277,
70_reset_and_hazards.md R312).
-/

namespace Sys2Proof.Machine

open Sys2Proof

/-! ### How a command can fail -/

/-- `t` is `s` as a command that fails leaves it: raised at once, after one evaluation of `cap`, or after the attempts
on a source, none of which delivered (60_exceptions.md R272). -/
inductive State.FailsTo (s : State) : State → Prop where
  | check (c : Code) : s.FailsTo (s.raise c)
  | gate (f : Feature) (c : Code) : s.FailsTo ((s.afterCap f).raise c)
  | fastAttempts (n : Nat) : s.FailsTo ({ s.afterCap .fast with fast := s.fast.after n }.raise .exhausted)
  | entAttempts (n : Nat) : s.FailsTo ({ s.afterCap .ent with ent := s.ent.after n }.raise .exhausted)

/-- A command on `s` that ends as `o` with a code other than `OK` has failed in one of those ways. -/
def State.OkOrFails (s : State) (o : Host.Outcome State Fault Refusal) : Prop :=
  ∀ t, o = .next t → codeField t.status ≠ 0 → s.FailsTo t

section okOrFails

variable {s t : State}

theorem State.FailsTo.okOrFails (h : s.FailsTo t) : s.OkOrFails (.next t) := by
  rintro _ ⟨⟩ _
  exact h

theorem raise_okOrFails (s : State) (c : Code) : s.OkOrFails (.next (s.raise c)) := (State.FailsTo.check c).okOrFails

theorem okOrFails_of_ok (h : codeField t.status = 0) : s.OkOrFails (.next t) := by
  rintro _ ⟨⟩ hne
  exact absurd h hne

theorem codeField_succeed (s : State) (src : Source) : codeField (s.succeed src).status = 0 :=
  codeField_statusWord .ok src

theorem succeed_okOrFails (s t : State) (src : Source) : s.OkOrFails (.next (t.succeed src)) :=
  okOrFails_of_ok (codeField_succeed t src)

theorem okOrFails_ite {p : Prop} [Decidable p] {o o' : Host.Outcome State Fault Refusal} (h : s.OkOrFails o)
    (h' : s.OkOrFails o') : s.OkOrFails (if p then o else o') := by
  split
  · exact h
  · exact h'

theorem needsInit_okOrFails {v : Variant} {body : State → Host.Outcome State Fault Refusal}
    (h : s.OkOrFails (body s)) : s.OkOrFails (needsInit v s body) := by
  rcases needsInit_cases v s body with ⟨_, e⟩ | ⟨_, e⟩ <;> rw [e]
  · exact h
  · exact raise_okOrFails s .noinit

theorem crcCommand_okOrFails (n : Nat) (s : State) : s.OkOrFails (.next (crcCommand n s)) := by
  rcases crcCommand_cases n s with ⟨_, e⟩ | ⟨_, e⟩ <;> rw [e]
  · exact succeed_okOrFails _ _ _
  · exact (State.FailsTo.gate .crc .unavail).okOrFails

theorem hashCommand_okOrFails {w : Nat} (h : State → Nat → Nat → BitVec w) (s : State) :
    s.OkOrFails (.next (hashCommand h s)) := by
  rcases hashCommand_cases h s with ⟨_, _, e⟩ | ⟨_, _, e⟩ | ⟨_, e⟩ <;> rw [e]
  · exact succeed_okOrFails _ _ _
  · exact (State.FailsTo.gate .crc .range).okOrFails
  · exact (State.FailsTo.gate .crc .unavail).okOrFails

theorem sampleG32_okOrFails (min limit : U32) (s : State) : s.OkOrFails (s.sampleG32 min limit) := by
  intro t h hne
  obtain ⟨r, f, _, rfl⟩ := State.sampleG32_next h
  exact absurd (codeField_succeed _ _) hne

theorem sampleG64_okOrFails (min limit : U64) (s : State) : s.OkOrFails (s.sampleG64 min limit) := by
  intro t h hne
  obtain ⟨r, f, _, rfl⟩ := State.sampleG64_next h
  exact absurd (codeField_succeed _ _) hne

theorem execGnext_okOrFails (v : Variant) (s : State) : s.OkOrFails (execGnext v s) :=
  needsInit_okOrFails (succeed_okOrFails _ _ _)

theorem execGjump_okOrFails (v : Variant) (s : State) : s.OkOrFails (execGjump v s) :=
  needsInit_okOrFails (succeed_okOrFails _ _ _)

theorem execGunif_okOrFails (v : Variant) (s : State) : s.OkOrFails (execGunif v s) := by
  cases v with
  | g32 | g64 => exact raise_okOrFails s .illegal
  | gf | gd =>
    simp only [execGunif]
    exact needsInit_okOrFails (succeed_okOrFails _ _ _)

theorem execGbound_okOrFails (v : Variant) (s : State) : s.OkOrFails (execGbound v s) := by
  cases v with
  | g32 =>
    simp only [execGbound]
    exact needsInit_okOrFails (okOrFails_ite (raise_okOrFails s _) (sampleG32_okOrFails _ _ s))
  | g64 =>
    simp only [execGbound]
    exact needsInit_okOrFails (okOrFails_ite (raise_okOrFails s _) (sampleG64_okOrFails _ _ s))
  | gf | gd => exact raise_okOrFails s .illegal

theorem execGrange_okOrFails (v : Variant) (s : State) : s.OkOrFails (execGrange v s) := by
  cases v with
  | g32 =>
    simp only [execGrange]
    exact needsInit_okOrFails (okOrFails_ite (raise_okOrFails s _) (sampleG32_okOrFails _ _ s))
  | g64 =>
    simp only [execGrange]
    exact needsInit_okOrFails (okOrFails_ite (raise_okOrFails s _) (sampleG64_okOrFails _ _ s))
  | gf | gd => exact raise_okOrFails s .illegal

theorem execGadopt_okOrFails (v : Variant) (s : State) : s.OkOrFails (execGadopt v s) := by
  unfold execGadopt
  split
  · exact raise_okOrFails s .precond
  · exact succeed_okOrFails _ _ _

theorem execTryfast_okOrFails (s : State) : s.OkOrFails (execTryfast s) := by
  unfold execTryfast
  split
  · rcases (s.afterCap .fast).tryFast_cases with ⟨d, _, e⟩ | ⟨_, e⟩ <;> rw [e]
    · exact succeed_okOrFails _ _ _
    · obtain ⟨n, _, hn⟩ := acquire_moves_feed Config.fastDraw s.par.fastAttempts s.fast
      rw [State.acquireFast_afterCap, State.acquireFast, hn]
      exact (State.FailsTo.fastAttempts n).okOrFails
  · exact (State.FailsTo.gate .fast .unavail).okOrFails

theorem execTryent_okOrFails (s : State) : s.OkOrFails (execTryent s) := by
  unfold execTryent
  split
  · rcases (s.afterCap .ent).tryEnt_cases with ⟨d, _, e⟩ | ⟨_, e⟩ <;> rw [e]
    · exact succeed_okOrFails _ _ _
    · obtain ⟨n, _, hn⟩ := acquire_moves_feed Config.entDraw s.par.entAttempts s.ent
      rw [State.acquireEnt_afterCap, State.acquireEnt, hn]
      exact (State.FailsTo.entAttempts n).okOrFails
  · exact (State.FailsTo.gate .ent .unavail).okOrFails

/-- `AUTOSEED` always delivers: its last source cannot fail (44_capability_entropy.md R231). -/
theorem execAutoseed_okOrFails (s : State) : s.OkOrFails (execAutoseed s) :=
  okOrFails_of_ok (by rcases s.seedFromEnt_status with h | h | h <;> rw [h] <;> decide)

end okOrFails

/-- How a command can fail, said once. -/
theorem exec_okOrFails (i : Instr) (s : State) : s.OkOrFails (exec i s) := by
  cases i with
  | nop | mix32 | mix64 | comb32 | comb64 | sxnext => exact succeed_okOrFails _ _ _
  | crc8 | crc16 | crc32 | crc64 => exact crcCommand_okOrFails _ s
  | hash32 | hash64 => exact hashCommand_okOrFails _ s
  | ginit v => exact succeed_okOrFails _ _ _
  | gnext v => exact execGnext_okOrFails v s
  | gjump v => exact execGjump_okOrFails v s
  | gunif v => exact execGunif_okOrFails v s
  | gbound v => exact execGbound_okOrFails v s
  | grange v => exact execGrange_okOrFails v s
  | gadopt v => exact execGadopt_okOrFails v s
  | capq f => exact succeed_okOrFails _ _ _
  | tryfast => exact execTryfast_okOrFails s
  | tryent => exact execTryent_okOrFails s
  | autoseed => exact execAutoseed_okOrFails s

/-! ### What a failure leaves -/

section failsTo

variable {s t : State} (h : s.FailsTo t)
include h

theorem State.FailsTo.frame :
    t = { s with status := t.status, caps := t.caps, fast := t.fast, ent := t.ent } := by
  cases h with
  | check c => rfl
  | gate f c => rw [State.afterCap_eq]; rfl
  | fastAttempts n => rw [State.afterCap_eq]; rfl
  | entAttempts n => rw [State.afterCap_eq]; rfl

theorem State.FailsTo.srcField : srcField t.status = 0 := by
  cases h <;> exact srcField_statusWord _ .none

theorem State.FailsTo.caps : t.caps = s.caps ∨ ∃ f, t.caps = (s.afterCap f).caps := by
  cases h with
  | check c => exact .inl rfl
  | gate f c => exact .inr ⟨f, rfl⟩
  | fastAttempts n => exact .inr ⟨.fast, rfl⟩
  | entAttempts n => exact .inr ⟨.ent, rfl⟩

theorem State.FailsTo.fast : s.fast.MovesTo t.fast := by
  cases h with
  | check c => exact .refl _
  | gate f c => simp
  | fastAttempts n => exact ⟨n, rfl⟩
  | entAttempts n => simp

theorem State.FailsTo.ent : s.ent.MovesTo t.ent := by
  cases h with
  | check c => exact .refl _
  | gate f c => simp
  | fastAttempts n => simp
  | entAttempts n => exact ⟨n, rfl⟩

end failsTo

/-- Settles O57: each clause holds of every way a command can fail. -/
theorem failuresChangeNothingElse : Obligations.FailuresChangeNothingElse := by
  intro i s t h hne
  have hf : s.FailsTo t := exec_okOrFails i s t h hne
  exact ⟨hf.frame, hf.srcField, hf.caps, hf.fast, hf.ent⟩

/-! ### Every step goes on -/

theorem commandStep_next (w : U64) (s : State) : ∃ t, commandStep w s = .next t := by
  cases hd : decodeWord w with
  | none => exact ⟨_, by rw [commandStep, runCommand_of_illegal hd]⟩
  | some i =>
    rcases exec_ends i s with ⟨t, he, _⟩ | he
    · exact ⟨t, commandStep_of_next hd he⟩
    · exact ⟨_, commandStep_of_fault hd he⟩

theorem perform_next (e : HostEvent) (s : State) : ∃ t, perform e s = .next t := by
  cases e with
  | read off n => exact ⟨_, rfl⟩
  | write off n v =>
    cases hc : isCmdAccess off n with
    | false => exact ⟨_, by rw [perform, hc]; rfl⟩
    | true => exact (commandStep_next v (s.hostWrite off n v)).imp fun t ht => by rw [perform, hc]; exact ht
  | reset ids => exact ⟨_, rfl⟩
  | abandon w n ids => exact ⟨_, rfl⟩

theorem stepSafe (s : State) : StepSafe s := by
  cases hh : s.held with
  | true => exact ⟨_, step_held hh⟩
  | false =>
    cases hp : s.port with
    | nil => exact ⟨s, step_idle hh hp⟩
    | cons e rest => exact (perform_next e _).imp fun t ht => (step_cons hh hp).trans ht

/-! ### Which step leaves a write held -/

section noFault

variable {v : Variant} {s : State} {r : Fault}

theorem needsInit_ne_fault {body : State → Host.Outcome State Fault Refusal} (h : body s ≠ .fault r) :
    needsInit v s body ≠ .fault r := by
  rcases needsInit_cases v s body with ⟨_, e⟩ | ⟨_, e⟩ <;> rw [e]
  · exact h
  · exact nofun

theorem execGnext_ne_fault : execGnext v s ≠ .fault r := needsInit_ne_fault nofun

theorem execGjump_ne_fault : execGjump v s ≠ .fault r := needsInit_ne_fault nofun

theorem execGunif_ne_fault : execGunif v s ≠ .fault r := by
  cases v with
  | g32 | g64 => exact nofun
  | gf | gd =>
    simp only [execGunif]
    exact needsInit_ne_fault nofun

end noFault

/-- Only the sampler has a loop that can fail to end (70_reset_and_hazards.md R312). -/
theorem sampler_of_exec_fault {i : Instr} {s : State} {r : Fault} (h : exec i s = .fault r) :
    ∃ v, i = .gbound v ∨ i = .grange v := by
  cases i with
  | gbound v => exact ⟨v, .inl rfl⟩
  | grange v => exact ⟨v, .inr rfl⟩
  | gnext v => exact absurd h execGnext_ne_fault
  | gjump v => exact absurd h execGjump_ne_fault
  | gunif v => exact absurd h execGunif_ne_fault
  | _ => cases h

/-- A write of `CMD` is held only where the word is a sampler command whose loop never ends. -/
theorem commandStep_held {w : U64} {s t : State} (h : commandStep w s = .next t) (hs : s.held = false)
    (ht : t.held = true) :
    ∃ v i, (i = .gbound v ∨ i = .grange v) ∧ encode i = w ∧ exec i s = .fault .samplerDiverges := by
  rcases commandStep_cases h with ⟨i, _, he⟩ | ⟨_, rfl⟩ | ⟨i, hd, he, _⟩
  · simp [(exec_runs he).sameRest.held, hs] at ht
  · simp [hs] at ht
  · obtain ⟨v, hi⟩ := sampler_of_exec_fault he
    exact ⟨v, i, hi, encode_of_decodeWord hd, he⟩

@[simp] theorem State.writeReg_held (s : State) (x : U64) (r : Reg) : (s.writeReg x r).held = s.held := by
  cases r <;> rfl

@[simp] theorem State.hostWrite_held (s : State) (off n : Nat) (v : U64) : (s.hostWrite off n v).held = s.held := by
  rcases s.hostWrite_cases off n v with ⟨r, e⟩ | ⟨r, e⟩ | ⟨a, _, e⟩ <;> simp [e]

@[simp] theorem State.hostRead_held (s : State) (off n : Nat) : (s.hostRead off n).held = s.held := by
  obtain ⟨r, e⟩ := s.hostRead_cases off n
  rw [e]

/-- Settles O60, by the cases of a step: only a write of `CMD` can leave one held. -/
theorem onlyTheSamplerCanHoldTheBlock : Obligations.OnlyTheSamplerCanHoldTheBlock := by
  refine fun s => ⟨stepSafe s, fun t h hs ht => ?_⟩
  rcases step_cases h with ⟨hh, _⟩ | ⟨_, ⟨_, rfl⟩ | ⟨ids, rest, _, rfl⟩ | ⟨w, n, ids, rest, _, rfl⟩ |
    ⟨off, n, rest, _, rfl⟩ | ⟨off, n, v, rest, _, _, rfl⟩ | ⟨w, rest, hp, hc⟩⟩
  · simp [hs] at hh
  · simp [hs] at ht
  · simp at ht
  · simp at ht
  · simp [hs] at ht
  · simp [hs] at ht
  · obtain ⟨v, i, hi, rfl, he⟩ := commandStep_held hc hs ht
    exact ⟨v, i, rest, hi, hp, he⟩

end Sys2Proof.Machine
end

section
/-!
PROOF. The sampler has no bound: it ends in the fault exactly where every draw is rejected (43_sampler.md R210,
70_reset_and_hazards.md R312).
-/

namespace Sys2Proof.Machine

open Sys2Proof

/-! ### The loop that never ends -/

/-- Where every draw is rejected, no number of redraws is enough. -/
theorem redraw_eq_none {w : Nat} {σ : Type} {draw : σ → BitVec w × σ} {limit : BitVec w} {st : σ}
    (hrej : ∀ n, Rejected limit (draw (drawn draw n st)).1) (bound : Nat) :
    redraw draw limit bound (wideMul (draw st).1 limit) (draw st).2 = none := by
  induction bound generalizing st with
  | zero => exact if_pos (hrej 0)
  | succ bound ih =>
    have hfirst : loHalf w (wideMul (draw st).1 limit) < threshold limit := hrej 0
    rw [redraw_reject draw hfirst]
    exact ih fun n => hrej (n + 1)

/-- On a four-word file the bounded loop accepts nothing exactly where the loop without a bound never ends: had any
draw been accepted, the first such draw would have come within the bound. -/
theorem bounded_eq_none_iff {w : Nat} {draw : Quad w → BitVec w × Quad w} {limit : BitVec w} {st : Quad w}
    (hl : 0 < limit.toNat) :
    bounded draw limit st = none ↔ ∀ n, Rejected limit (draw (drawn draw n st)).1 := by
  classical
  refine ⟨fun hnone => ?_, fun hrej => by rw [bounded_eq_redraw hl, redraw_eq_none hrej]⟩
  by_contra hsome
  have hacc : ∃ n, ¬ Rejected limit (draw (drawn draw n st)).1 := not_forall.mp hsome
  have hfirst := bounded_first hl (fun j hj => not_not.mp (Nat.find_min hacc hj)) (Nat.find_spec hacc)
  exact absurd (hnone.symm.trans hfirst) nofun

section fault

variable {s : State} {r : Fault}

theorem State.sampleG32_fault_iff_bounded {min limit : U32} :
    s.sampleG32 min limit = .fault .samplerDiverges ↔ bounded (stepG32 s.par) limit s.g32 = none := by
  unfold State.sampleG32
  split <;> simp [*]

theorem State.sampleG64_fault_iff_bounded {min limit : U64} :
    s.sampleG64 min limit = .fault .samplerDiverges ↔ bounded (stepG64 s.par) limit s.g64 = none := by
  unfold State.sampleG64
  split <;> simp [*]

theorem State.sampleG32_fault_iff {min limit : U32} (hl : 0 < limit.toNat) :
    s.sampleG32 min limit = .fault .samplerDiverges ↔ ∀ n, Rejected limit (s.drawG32 n) :=
  State.sampleG32_fault_iff_bounded.trans (bounded_eq_none_iff hl)

theorem State.sampleG64_fault_iff {min limit : U64} (hl : 0 < limit.toNat) :
    s.sampleG64 min limit = .fault .samplerDiverges ↔ ∀ n, Rejected limit (s.drawG64 n) :=
  State.sampleG64_fault_iff_bounded.trans (bounded_eq_none_iff hl)

/-! ### The checks before the loop do not fault -/

/-- A sampler that faults has passed the check of `GINITED` and that of its operands `c`; the fault is its
sampling's. -/
theorem exec_sampler_fault_iff {v : Variant} {i : Instr} {c : Prop} [Decidable c]
    {sampling : Host.Outcome State Fault Refusal} (hi : i = .gbound v ∨ i = .grange v) (hw : i.wellFormed = true)
    (he : isInited s.ginited v = true → exec i s = if c then .next { s with status := 3 } else sampling) :
    exec i s = .fault r ↔ isInited s.ginited v = true ∧ ¬ c ∧ sampling = .fault r := by
  cases hinit : isInited s.ginited v with
  | false =>
    have hmem : i ∈ [Instr.gnext v, .gjump v, .gunif v, .gbound v, .grange v] := by
      rcases hi with rfl | rfl <;> simp
    simp [uninitialisedGeneratorRaisesNoinit s v i hmem hw hinit]
  | true =>
    rw [he hinit]
    split <;> simp [*]

end fault

/-- Settles O42: past the two checks the fault is the sampling's, whose loop meets every draw there is. -/
theorem samplerStopsOnlyWhenNoDrawIsAccepted : Obligations.SamplerStopsOnlyWhenNoDrawIsAccepted := by
  refine fun s => ⟨?_, ?_, ?_, ?_⟩
  · rw [exec_sampler_fault_iff (.inl rfl) rfl exec_gbound_g32]
    exact and_congr_right fun _ => and_congr_right fun hl => State.sampleG32_fault_iff (toNat_pos_of_ne_zero hl)
  · rw [exec_sampler_fault_iff (.inl rfl) rfl exec_gbound_g64]
    exact and_congr_right fun _ => and_congr_right fun hl => State.sampleG64_fault_iff (toNat_pos_of_ne_zero hl)
  · rw [exec_sampler_fault_iff (.inr rfl) rfl exec_grange_g32, Nat.not_le]
    exact and_congr_right fun _ => and_congr_right fun hlt => State.sampleG32_fault_iff (toNat_sub_pos hlt)
  · rw [exec_sampler_fault_iff (.inr rfl) rfl exec_grange_g64, Nat.not_le]
    exact and_congr_right fun _ => and_congr_right fun hlt => State.sampleG64_fault_iff (toNat_sub_pos hlt)

end Sys2Proof.Machine
end

section
/-!
PROOF. A term the decoder never gives means what its illegal word means: `ILLEGAL`, and nothing else changes
(30_encoding.md R93, R95, R97; log 14).
-/

namespace Sys2Proof.Machine

open Sys2Proof

theorem exec_gunif_of_not_isFloat {v : Variant} (hv : v.isFloat = false) (s : State) :
    exec (.gunif v) s = .next (s.raise .illegal) := by
  cases v with
  | g32 | g64 => rfl
  | gf | gd => cases hv

theorem exec_gbound_of_not_isInteger {v : Variant} (hv : v.isInteger = false) (s : State) :
    exec (.gbound v) s = .next (s.raise .illegal) := by
  cases v with
  | gf | gd => rfl
  | g32 | g64 => cases hv

theorem exec_grange_of_not_isInteger {v : Variant} (hv : v.isInteger = false) (s : State) :
    exec (.grange v) s = .next (s.raise .illegal) := by
  cases v with
  | gf | gd => rfl
  | g32 | g64 => cases hv

/-- Only `GUNIF`, `GBOUND` and `GRANGE` do not admit every variant (30_encoding.md R93). -/
theorem exec_of_not_wellFormed {i : Instr} (hi : i.wellFormed = false) (s : State) :
    exec i s = .next (s.raise .illegal) := by
  cases i with
  | gunif v => exact exec_gunif_of_not_isFloat hi s
  | gbound v => exact exec_gbound_of_not_isInteger hi s
  | grange v => exact exec_grange_of_not_isInteger hi s
  | nop | mix32 | mix64 | comb32 | comb64 | sxnext => cases hi
  | crc8 | crc16 | crc32 | crc64 | hash32 | hash64 => cases hi
  | ginit | gnext | gjump | gadopt | capq => cases hi
  | tryfast | tryent | autoseed => cases hi

/-- Settles O6: `ILLEGAL` is the status word 5. -/
theorem illFormedTermsMeanIllegal : Obligations.IllFormedTermsMeanIllegal := by
  intro s i hi
  rw [exec_of_not_wellFormed hi, State.raise_illegal]

end Sys2Proof.Machine
end
